-- ==== Sys2Proof/Word.lean ====
section
/-! DEFINITION. The two widths every value of the Honeycomb SM3/SM4 core has (00_scope.md R7, R9): the 32-bit
word of the SM3 and SM4 datapaths and of the host registers, and the 8-bit byte of the buffers. All values are
unsigned (R9). -/

namespace Sys2Proof

/-- A 32-bit word, bit 0 least significant (R7, R9). -/
abbrev Word := BitVec 32

/-- An 8-bit byte (R9). -/
abbrev Byte := BitVec 8

/-- The four byte buffers, each an address space of its own (20_memory.md R86, 10_state.md R43). -/
inductive Space where
  | src
  | key
  | iv
  | dst
deriving DecidableEq, Repr

end Sys2Proof
end

