-- ==== Sys2Proof/Machine/Agents.lean ====
section
/-! DEFINITION. The two agents (10_state.md R30) and the host's program as plain data (30_encoding.md R117). The
host is outside the core; its program is held in State so that one deterministic step can show both agents. -/

namespace Sys2Proof.Machine

/-- Who moves: the host or the one engine (R30). -/
inductive Agent where
  | host
  | engine
deriving DecidableEq, Repr

/-- A `<name>` of a host program (R117): a number for the name, and the index of `<name>[k]` (READDST, R118), 0
for a plain name. -/
structure Name where
  id : Nat
  idx : Nat
deriving DecidableEq, Repr

/-- A value a host statement writes: a literal, or a value an earlier read named (`WB SRC, k, t`, R118). -/
inductive Val where
  | imm (v : Word)
  | named (n : Name)
deriving DecidableEq, Repr

/-- The host statements of R117, with RESET (70_reset_and_hazards.md R320) and the register accesses by bus
address of 20_memory.md R88 (`size` is the number of bytes; R84 admits 4 only). `CMD <mnemonic>` is a `wr`. -/
inductive Stmt where
  /-- `WR <reg>, <v32>`, the register by its index (10_state.md R31). -/
  | wr (reg : Nat) (v : Val)
  /-- `RD <reg> -> <name>`. -/
  | rd (reg : Nat) (name : Name)
  /-- `WB <space>, <off>, <v8>`. -/
  | wb (sp : Space) (off : Nat) (v : Val)
  /-- `RB <space>, <off> -> <name>`. -/
  | rb (sp : Space) (off : Nat) (name : Name)
  /-- A register write of `size` bytes at a byte address of the host's address space (R88). -/
  | busWr (addr size : Nat) (v : Val)
  /-- A register read of `size` bytes at a byte address of the host's address space (R88). -/
  | busRd (addr size : Nat) (name : Name)
  /-- `label:`, a position in the program. -/
  | label (l : Nat)
  /-- `BNZ <name>, <mask>, <label>`. -/
  | bnz (name : Name) (mask : Word) (l : Nat)
  /-- `RESET` (R320). -/
  | reset
deriving DecidableEq, Repr

/-- The host: its program, the index of its next statement, and the values its reads have named, newest first. -/
structure HostAgent where
  prog : List Stmt
  pos : Nat
  env : List (Name × Word)
deriving DecidableEq, Repr

end Sys2Proof.Machine
end

