-- ==== Sys2Proof/Machine/Datapath.lean ====
section
/-! DEFINITION. The hidden datapath registers of the engine (10_state.md R46 to R48) as plain data. The host
cannot address them (R42); a command writes every one it uses before reading it (R54). -/

namespace Sys2Proof.Machine

/-- The eight SM3 working words A..H, the source's "state copies" (R46). -/
structure Work where
  a : Word
  b : Word
  c : Word
  d : Word
  e : Word
  f : Word
  g : Word
  h : Word
deriving DecidableEq, Repr, Inhabited

/-- The registers of R46 (SM3), R47 (SM4) and R48 (mode sequencer), under the spec's names. -/
structure Datapath where
  /-- A..H (R46). -/
  work : Work
  /-- W[0..67] (R46). -/
  w : Vector Word 68
  /-- W1[0..63] (R46). -/
  w1 : Vector Word 64
  /-- The SM3 round index j, 0..63 (R46). -/
  j : Nat
  /-- BLK, the 64-byte block index (R46). -/
  blk : Nat
  /-- PM, the padded message (R46). -/
  pm : List Byte
  /-- VS[0..7], the chaining value during SM3_HASH (R46). -/
  vs : Vector Word 8
  /-- K[0..35], the key-schedule words (R47). -/
  k : Vector Word 36
  /-- RKS[0..31], the round keys being computed (R47). -/
  rks : Vector Word 32
  /-- X[0..35], the block words (R47). -/
  x : Vector Word 36
  /-- The SM4 round index i, 0..31 (R47). -/
  i : Nat
  /-- CHAIN, the CBC chaining value, 16 bytes (R48). -/
  chain : Vector Byte 16
  /-- NB, the number of 16-byte blocks (R48). -/
  nb : Nat
  /-- b, the block index (R48). -/
  b : Nat
  /-- RES, the result string being assembled (R48). -/
  res : List Byte
deriving DecidableEq, Repr, Inhabited

end Sys2Proof.Machine
end

