-- ==== Sys2Proof/Config.lean ====
section
/-! DEFINITION. What the platform fixes (00_scope.md R8: SRC_CAP, MMIO_BASE, DST_CAP) and the free values. An
opaque constant here has no body: no proof can learn its value, so a theorem holds whatever it is. -/

namespace Sys2Proof

/-- The OPEN parameters of R8 (93_implementation_defined.md P1, P3). A model takes SRC_CAP as an argument (R8), so
the platform is a field of State that no step changes: a statement over all states holds for every platform. -/
structure Platform where
  /-- SRC_CAP, the capacity of SRC in bytes (P1). -/
  srcCap : Nat
  /-- MMIO_BASE, the byte address of register index 0 (P3, 20_memory.md R88). -/
  mmioBase : Nat
deriving DecidableEq, Repr

/-- The ranges of R8 and R88: 64 <= SRC_CAP <= 2^61 - 1, MMIO_BASE 4-byte aligned. -/
def Platform.wf (p : Platform) : Bool :=
  decide (64 ≤ p.srcCap) && decide (p.srcCap ≤ 2 ^ 61 - 1) && decide (p.mmioBase % 4 = 0)

/-- DST_CAP = max(SRC_CAP + 16, 32) (R8, P2). -/
def Platform.dstCap (p : Platform) : Nat := max (p.srcCap + 16) 32

/-- Capacity in bytes of each buffer (10_state.md R43). -/
def Platform.cap (p : Platform) : Space → Nat
  | .src => p.srcCap
  | .key => 16
  | .iv => 16
  | .dst => p.dstCap

namespace Config

/-- Free: names the SRC_CAP of the reset state (log entry 1). -/
opaque srcCapFree : Nat

/-- Free: names the MMIO_BASE of the reset state (log entry 1). -/
opaque mmioFree : Nat

/-- Free: the byte that stands at each offset of each buffer after the n-th reset (10_state.md R44, U2; log
entry 2). -/
opaque resetByte : Nat → Space → Nat → Byte

/-- Free: what an unspecified host read returns, a fresh draw at each read (U1, U4, U5; log entry 3). -/
opaque readDraw : Nat → Word

/-- Free: what the hidden datapath registers hold after a command (10_state.md R54, U3; log entry 4). -/
opaque idleDatapath : Nat → Machine.Datapath

/-- Free: the interleaving of host and engine of the reset state (70_reset_and_hazards.md R332; log entry 5). -/
opaque schedule : List Machine.Agent

/-- The platform of the reset state: any SRC_CAP in 64 .. 2^61 - 1, any 4-byte aligned MMIO_BASE. -/
def platform : Platform where
  srcCap := srcCapFree % (2 ^ 61 - 64) + 64
  mmioBase := 4 * mmioFree

end Config
end Sys2Proof
end

