-- ==== Sys2Proof/Syntax.lean ====
section
/-! DEFINITION. The core's commands, one constructor per row of spec/opcode_table.json (30_encoding.md R112).
No command word carries an operand (R114), so no constructor has an argument: every operand is a register or a
buffer the command's own rule names. -/

namespace Sys2Proof

/-- The twelve commands (R112), in the order of the opcode map. -/
inductive Instr where
  /-- SM3_HASH (40_sm3.md R160). -/
  | sm3Hash
  /-- SM3_INIT (40_sm3.md R161). -/
  | sm3Init
  /-- SM3_COMPRESS (40_sm3.md R162). -/
  | sm3Compress
  /-- SM4_KEYEXP (41_sm4.md R200). -/
  | sm4Keyexp
  /-- SM4_ENC_BLOCK (41_sm4.md R201). -/
  | sm4EncBlock
  /-- SM4_DEC_BLOCK (41_sm4.md R202). -/
  | sm4DecBlock
  /-- ECB_ENC (43_modes.md R256). -/
  | ecbEnc
  /-- ECB_DEC (43_modes.md R257). -/
  | ecbDec
  /-- CBC_ENC (43_modes.md R258). -/
  | cbcEnc
  /-- CBC_DEC (43_modes.md R259). -/
  | cbcDec
  /-- PKCS7_PAD (42_pkcs7.md R235). -/
  | pkcs7Pad
  /-- PKCS7_UNPAD (42_pkcs7.md R236). -/
  | pkcs7Unpad
deriving DecidableEq, Repr

end Sys2Proof
end

