-- ==== Sys2Proof/Machine/State.lean ====
section
/-! DEFINITION. The machine's state as plain data (10_state.md): every register, buffer and hidden register the
spec names, the host agent and the interleaving, and the reset state (R54, 70_reset_and_hazards.md R320). -/

namespace Sys2Proof.Machine

/-- One buffer: the bytes written since the last reset, as (offset, byte) cells with offsets strictly rising. An
offset with no cell holds no written byte and reads as the free reset byte of R44 (State.readByte). -/
abbrev Memory := List Host.Cell

/-- The machine never stops with a fault: the core has no trap mechanism (60_exceptions.md R290) and every accepted
command completes (R288), so no constructor exists and nothing raises one; safe. -/
inductive Fault where
deriving DecidableEq, Repr

/-- Why a step has no move. All but the first are host statements for which "the core has no behaviour"
(70_reset_and_hazards.md R336). -/
inductive Refusal where
  /-- An instruction whose arm has no meaning yet; raised by exec's refused arms only; safe. -/
  | notModelled (mnemonic : String)
  /-- A register access at an index or address outside the map (R41, U8); raised by WR, RD and the bus accesses;
  safe. -/
  | outsideRegisterMap
  /-- A register access that is not a whole word (R84, U8); raised by the bus accesses; safe. -/
  | partialRegisterAccess
  /-- A register access at an address that is not MMIO_BASE + 4*k (R89); raised by the bus accesses; safe. -/
  | misalignedRegisterAccess
  /-- A branch to a label the host program does not hold (R117 gives no position); raised by BNZ; safe. -/
  | labelAbsent
  /-- A host statement that uses a name no read has given a value (R117); raised by WR, WB, the bus write and BNZ;
  safe. -/
  | nameUnread
deriving DecidableEq, Repr

/-- STATUS (R33): its fields. Bits 7:4 and 31:12 have no storage and read as 0 (Status.word). -/
structure Status where
  /-- BUSY, bit 0; also PHASE (R49): 1 is RUNNING. -/
  busy : Bool
  /-- DONE, bit 1. -/
  done : Bool
  /-- ERR, bit 2. -/
  err : Bool
  /-- RKV, bit 3. -/
  rkv : Bool
  /-- ERRCODE, bits 11:8. -/
  errcode : BitVec 4
deriving DecidableEq, Repr

/-- The operand snapshot taken at acceptance (R50, 60_exceptions.md R285). -/
structure Snapshot where
  srclen : BitVec 64
  keylen : Word
  ivlen : Word
  v : Vector Word 8
  rk : Vector Word 32
  rkv : Bool
deriving DecidableEq, Repr

/-- The machine. -/
structure State where
  /-- SRC_CAP and MMIO_BASE (00_scope.md R8); no step changes it. -/
  plat : Platform
  /-- CMD, index 0x00 (R32): the last accepted word. -/
  cmd : Word
  /-- STATUS, index 0x01 (R33). -/
  status : Status
  /-- SRCLEN_LO, index 0x02 (R35). -/
  srclenLo : Word
  /-- SRCLEN_HI, index 0x03 (R35). -/
  srclenHi : Word
  /-- KEYLEN, index 0x04 (R36). -/
  keylen : Word
  /-- IVLEN, index 0x05 (R37). -/
  ivlen : Word
  /-- DSTLEN_LO, index 0x06 (R38). -/
  dstlenLo : Word
  /-- DSTLEN_HI, index 0x07 (R38). -/
  dstlenHi : Word
  /-- V0..V7, indices 0x08 to 0x0F (R39). -/
  v : Vector Word 8
  /-- RK0..RK31, indices 0x10 to 0x2F (R40). -/
  rk : Vector Word 32
  /-- The SRC buffer (R43). -/
  src : Memory
  /-- The KEY buffer (R43). -/
  key : Memory
  /-- The IV buffer (R43). -/
  iv : Memory
  /-- The DST buffer (R43). -/
  dst : Memory
  /-- The operand snapshot (R49, R50). -/
  snap : Snapshot
  /-- The hidden datapath registers (R46 to R48). -/
  dp : Datapath
  /-- The model's own: how many resets there have been, which names the free reset bytes (R44, R320). -/
  epoch : Nat
  /-- The model's own: how many free values have been drawn. -/
  draws : Nat
  /-- The host agent (R30, 30_encoding.md R117). -/
  host : HostAgent
  /-- Who moves at each coming step taken while BUSY = 1, when host and engine are both enabled (70 R332). When the
  list is used up the engine moves. -/
  sched : List Agent
deriving DecidableEq, Repr

/-- STATUS = 0 (R54). -/
def Status.reset : Status where
  busy := false
  done := false
  err := false
  rkv := false
  errcode := 0

/-- RK0..RK31 at reset: the spec gives none; zero (DESIGN CHOICE, log entry 6). -/
def rkReset : Vector Word 32 := Vector.replicate 32 0

/-- The snapshot at reset: the spec gives none; the operand registers' reset values (DESIGN CHOICE, log entry 7). -/
def Snapshot.reset : Snapshot where
  srclen := 0
  keylen := 0
  ivlen := 0
  v := sm3Iv
  rk := rkReset
  rkv := false

/-- The datapath registers at reset: the spec gives none; zero and empty (DESIGN CHOICE, log entry 8). -/
def Datapath.reset : Datapath where
  work := ⟨0, 0, 0, 0, 0, 0, 0, 0⟩
  w := Vector.replicate 68 0
  w1 := Vector.replicate 64 0
  j := 0
  blk := 0
  pm := []
  vs := Vector.replicate 8 0
  k := Vector.replicate 36 0
  rks := Vector.replicate 32 0
  x := Vector.replicate 36 0
  i := 0
  chain := Vector.replicate 16 0
  nb := 0
  b := 0
  res := []

/-- A host with nothing to do. -/
def HostAgent.none : HostAgent where
  prog := []
  pos := 0
  env := []

/-- The machine right after reset (R54, R320): IDLE, V = SM3_IV, lengths 0, no byte written. -/
def State.reset : State where
  plat := Config.platform
  cmd := 0
  status := Status.reset
  srclenLo := 0
  srclenHi := 0
  keylen := 0
  ivlen := 0
  dstlenLo := 0
  dstlenHi := 0
  v := sm3Iv
  rk := rkReset
  src := []
  key := []
  iv := []
  dst := []
  snap := Snapshot.reset
  dp := Datapath.reset
  epoch := 0
  draws := 0
  host := HostAgent.none
  sched := Config.schedule

end Sys2Proof.Machine
end

