-- ==== Sys2Proof/Machine/Flags.lean ====
section
/-! DEFINITION. STATUS, the core's only flags (10_state.md R33, R34; 00_scope.md R13): its word, the values
acceptance, error and success give it (60_exceptions.md R285 to R287), the error codes (R280) and the conditions
under which each error is raised (R282), evaluated on the operand snapshot. -/

namespace Sys2Proof.Machine

/-- A one-bit field of a register as a one-bit vector. -/
def bit (b : Bool) : BitVec 1 := if b then 1 else 0

/-- The 32 bits a read of STATUS returns (R33); bits 7:4 and 31:12 are 0. -/
def Status.word (st : Status) : Word :=
  (0 : BitVec 20) ++ st.errcode ++ (0 : BitVec 4) ++ bit st.rkv ++ bit st.err ++ bit st.done ++ bit st.busy

/-- STATUS when a command is accepted (R285): RUNNING, RKV kept. -/
def Status.accepted (st : Status) : Status :=
  { st with busy := true, done := false, err := false, errcode := 0 }

/-- STATUS when a command ends in error `code` (R286): RKV kept. -/
def Status.failed (code : BitVec 4) (st : Status) : Status :=
  { st with busy := false, done := true, err := true, errcode := code }

/-- STATUS when a command succeeds (R287); `wroteRk` says whether it wrote RK, which sets RKV. -/
def Status.succeeded (wroteRk : Bool) (st : Status) : Status :=
  { busy := false, done := true, err := false, rkv := st.rkv || wroteRk, errcode := 0 }

/-- The errors a command raises (R280). -/
inductive CmdError where
  | invalidKeyLength
  | invalidIvLength
  | invalidCiphertextLength
  | illegalCommand
  | invalidBlockLength
  | roundKeysNotLoaded
  | sourceLengthOutOfRange
deriving DecidableEq, Repr

/-- ERRCODE of each error (R280). -/
def CmdError.code : CmdError → BitVec 4
  | .invalidKeyLength => 1
  | .invalidIvLength => 2
  | .invalidCiphertextLength => 3
  | .illegalCommand => 4
  | .invalidBlockLength => 5
  | .roundKeysNotLoaded => 6
  | .sourceLengthOutOfRange => 7

/-- SRCLEN of the running command, in bytes (R35, R50). -/
def State.srcLen (s : State) : Nat := s.snap.srclen.toNat

/-- `SRCLEN > SRC_CAP` (R282). -/
def srcTooLong (s : State) : Bool := decide (s.plat.srcCap < s.srcLen)

/-- `KEYLEN != 16` (R282). -/
def keyLenBad (s : State) : Bool := decide (s.snap.keylen ≠ 16)

/-- `IVLEN != 16` (R282). -/
def ivLenBad (s : State) : Bool := decide (s.snap.ivlen ≠ 16)

/-- `SRCLEN == 0 or SRCLEN mod 16 != 0` (R282). -/
def cipherLenBad (s : State) : Bool := decide (s.srcLen = 0 ∨ s.srcLen % 16 ≠ 0)

/-- `SRCLEN != n`, with n = 64 for SM3_COMPRESS and 16 for the SM4 block commands (R282). -/
def blockLenBad (n : Nat) (s : State) : Bool := decide (s.srcLen ≠ n)

/-- `STATUS.RKV == 0` (R282). -/
def keysNotLoaded (s : State) : Bool := !s.snap.rkv

/-- A row of R283: the error of the first check whose condition holds. -/
def firstFailing : List (Bool × CmdError) → Option CmdError
  | [] => none
  | (true, e) :: _ => some e
  | (false, _) :: rest => firstFailing rest

end Sys2Proof.Machine
end

