-- ==== Sys2Proof/Machine/Ops.lean ====
section
/-! DEFINITION. The named operations over memory and registers: buffer bytes (20_memory.md R85 to R91), register
files, the 64-bit lengths, acceptance (60_exceptions.md R285), the error outcome (R286), the success outcome
(R287), the check row of R283 and RESET (70_reset_and_hazards.md R320). -/

namespace Sys2Proof.Machine

/-- The written byte at an offset, if there is one. -/
def Memory.find : Memory → Nat → Option Byte
  | [], _ => none
  | (b, u) :: m, a => if a = b then some u else Memory.find m a

/-- Store one byte, keeping the offsets strictly rising. -/
def Memory.write : Memory → Nat → Byte → Memory
  | [], a, v => [(a, v)]
  | (b, u) :: m, a, v =>
    if a < b then (a, v) :: (b, u) :: m
    else if a = b then (a, v) :: m
    else (b, u) :: Memory.write m a v

/-- `MemWrite` (00_scope.md R12): store a byte string at offsets a, a+1, ... -/
def Memory.writeBytes : Memory → Nat → List Byte → Memory
  | m, _, [] => m
  | m, a, v :: vs => Memory.writeBytes (Memory.write m a v) (a + 1) vs

/-- Every offset is at least `lo`, and the offsets rise strictly. -/
def Memory.risingFrom : Nat → Memory → Bool
  | _, [] => true
  | lo, (a, _) :: m => decide (lo ≤ a) && Memory.risingFrom (a + 1) m

/-- The canonical form of a buffer of `cap` bytes: offsets strictly rising and below the capacity (R86). An
unlisted offset holds no written byte, so no cell can equal it. -/
def Memory.wf (cap : Nat) (m : Memory) : Bool :=
  Memory.risingFrom 0 m && m.all fun c => decide (c.1 < cap)

/-- The buffer of a space (R86). -/
def State.buf (s : State) : Space → Memory
  | .src => s.src
  | .key => s.key
  | .iv => s.iv
  | .dst => s.dst

/-- The byte at an offset: the written one, or the free byte that stands there since the last reset (10_state.md
R44). -/
def State.readByte (s : State) (sp : Space) (off : Nat) : Byte :=
  ((s.buf sp).find off).getD (Config.resetByte s.epoch sp off)

/-- `MemRead(SPACE, off, n)` (00_scope.md R12, R87). -/
def State.memRead (s : State) (sp : Space) (off n : Nat) : List Byte :=
  (List.range n).map fun k => s.readByte sp (off + k)

/-- A host byte store into SRC, KEY or IV; DST is not host-writable (R85). -/
def State.storeByte (s : State) (sp : Space) (off : Nat) (v : Byte) : State :=
  match sp with
  | .src => { s with src := s.src.write off v }
  | .key => { s with key := s.key.write off v }
  | .iv => { s with iv := s.iv.write off v }
  | .dst => s

/-- A register file of n registers holding a list's elements in order. -/
def regFile {w : Nat} (n : Nat) (l : List (BitVec w)) : Vector (BitVec w) n :=
  Vector.ofFn fun i : Fin n => l.getD i.val 0

/-- SRCLEN = SRCLEN_HI << 32 | SRCLEN_LO (10_state.md R35). -/
def State.srclen (s : State) : BitVec 64 := s.srclenHi ++ s.srclenLo

/-- DSTLEN = DSTLEN_HI << 32 | DSTLEN_LO (10_state.md R38). -/
def State.dstlen (s : State) : BitVec 64 := s.dstlenHi ++ s.dstlenLo

/-- `DSTLEN <- n` (R38): bits 31:0 into DSTLEN_LO, bits 63:32 into DSTLEN_HI. -/
def State.setDstlen (s : State) (n : Nat) : State :=
  { s with dstlenLo := (BitVec.ofNat 64 n).extractLsb' 0 32, dstlenHi := (BitVec.ofNat 64 n).extractLsb' 32 32 }

/-- The operands of R50 as the registers stand. -/
def State.operands (s : State) : Snapshot where
  srclen := s.srclen
  keylen := s.keylen
  ivlen := s.ivlen
  v := s.v
  rk := s.rk
  rkv := s.status.rkv

/-- Acceptance of a CMD write (60_exceptions.md R285): latch the word, RUNNING, snapshot the operands. -/
def State.accept (w : Word) (s : State) : State :=
  { s with cmd := w, status := s.status.accepted, snap := s.operands }

/-- The error outcome (R286), the one way a command reports an error: DSTLEN = 0 and STATUS; nothing else changes.
The next accepted command clears it (R292: State.accept); there is no other return. -/
def State.raiseError (e : CmdError) (s : State) : State :=
  { (s.setDstlen 0) with status := s.status.failed e.code }

/-- What a command commits (R287): the DST bytes from offset 0, and V and RK where its rule writes them. -/
structure Outputs where
  dst : List Byte
  v : Option (Vector Word 8)
  rk : Option (Vector Word 32)
deriving DecidableEq, Repr

/-- The success outcome (R287), one atomic event (20_memory.md R96): DST[0..DSTLEN), DSTLEN, V, RK and RKV as the
command gives them, STATUS; the hidden datapath registers keep no stated value (10_state.md R54, U3), so a free
one stands there. -/
def State.commit (o : Outputs) (s : State) : State :=
  { (s.setDstlen o.dst.length) with
    dst := s.dst.writeBytes 0 o.dst
    v := o.v.getD s.v
    rk := o.rk.getD s.rk
    status := s.status.succeeded o.rk.isSome
    dp := Config.idleDatapath s.draws
    draws := s.draws + 1 }

/-- A command: its check row (R283) before anything is read or written (R284), then its outputs. -/
def State.runChecked (checks : List (Bool × CmdError)) (o : Outputs) (s : State) :
    Host.Outcome State Fault Refusal :=
  match firstFailing checks with
  | some e => .next (s.raiseError e)
  | none => .next (s.commit o)

/-- RESET (70 R320, R321): every piece of the core's state to its reset value, with fresh free buffer bytes; a
running command is aborted and commits nothing. The platform and the host, which are outside the core, stay. -/
def State.resetCore (s : State) : State :=
  { State.reset with
    plat := s.plat, epoch := s.epoch + 1, draws := s.draws, host := s.host, sched := s.sched }

/-- A fresh free value for an unspecified host read (U1, U4, U5). -/
def State.draw (s : State) : Word × State := (Config.readDraw s.draws, { s with draws := s.draws + 1 })

end Sys2Proof.Machine
end

