-- ==== Sys2Proof/Machine/Operands.lean ====
section
/-! DEFINITION. The operand forms (00_scope.md R10, R11; 20_memory.md R80 to R82; 30_encoding.md R114): word
rotation, big-endian words, blocks of a byte string, and the operand strings a command reads. -/

namespace Sys2Proof.Machine

/-- `rotl(x, n)`, left rotation of a 32-bit word (R10), for every n. -/
def rotl (x : Word) (n : Nat) : Word := (x <<< (n % 32)) ||| (x >>> (32 - n % 32))

/-- `be32(s, i)` (R11): the byte at the lowest offset is the most significant. -/
def be32 (s : List Byte) (i : Nat) : Word :=
  s.getD i 0 ++ s.getD (i + 1) 0 ++ s.getD (i + 2) 0 ++ s.getD (i + 3) 0

/-- `bytes32(w)`, the big-endian serialisation of a word (R11). -/
def bytes32 (w : Word) : List Byte :=
  [w.extractLsb' 24 8, w.extractLsb' 16 8, w.extractLsb' 8 8, w.extractLsb' 0 8]

/-- `bytes64(v)`, the big-endian serialisation of a 64-bit value (R11). -/
def bytes64 (v : BitVec 64) : List Byte := bytes32 (v.extractLsb' 32 32) ++ bytes32 (v.extractLsb' 0 32)

/-- Bytewise xor of two byte strings of one length (43_modes.md R254). -/
def xorBytes (a b : List Byte) : List Byte := List.zipWith (· ^^^ ·) a b

/-- Block b of a byte string cut into blocks of n bytes, `S[n*b .. n*b + n)` (43 R251; 40 R151). -/
def blockOf (n : Nat) (S : List Byte) (b : Nat) : List Byte := (S.drop (n * b)).take n

/-- The operand string SRC[0..SRCLEN) (R114). -/
def State.srcBytes (s : State) : List Byte := s.memRead .src 0 s.srcLen

/-- The key KEY[0..16) (10_state.md R45). -/
def State.keyBytes (s : State) : List Byte := s.memRead .key 0 16

/-- The initialisation vector IV[0..16) (10_state.md R45). -/
def State.ivBytes (s : State) : List Byte := s.memRead .iv 0 16

end Sys2Proof.Machine
end

