-- ==== Sys2Proof/Machine/Pkcs7.lean ====
section
/-! DEFINITION. The padding unit (42_pkcs7.md): PKCS7 pad, the lax unpad, and their two commands (R235, R236). -/

namespace Sys2Proof.Machine

/-- padLen, 1..16, with the block size 16 (R230, R233). -/
def padLen (n : Nat) : Nat := 16 - n % 16

/-- `pkcs7_pad(S)` (R230): a full extra block when S is block-aligned. -/
def pkcs7Pad (S : List Byte) : List Byte :=
  S ++ List.replicate (padLen S.length) (BitVec.ofNat 8 (padLen S.length))

/-- `pkcs7_unpad(S)` (R231, R234): lax, it looks at the last byte only (R237). -/
def pkcs7Unpad (S : List Byte) : List Byte :=
  match S.getLast? with
  | none => S
  | some n => if 1 ≤ n.toNat ∧ n.toNat ≤ 16 ∧ n.toNat ≤ S.length then S.take (S.length - n.toNat) else S

/-- PKCS7_PAD (R235). -/
def execPkcs7Pad (s : State) : Host.Outcome State Fault Refusal :=
  s.runChecked [(srcTooLong s, .sourceLengthOutOfRange)] { dst := pkcs7Pad s.srcBytes, v := none, rk := none }

/-- PKCS7_UNPAD (R236). -/
def execPkcs7Unpad (s : State) : Host.Outcome State Fault Refusal :=
  s.runChecked [(srcTooLong s, .sourceLengthOutOfRange)] { dst := pkcs7Unpad s.srcBytes, v := none, rk := none }

end Sys2Proof.Machine
end

