-- ==== Sys2Proof/Machine/Sm4.lean ====
section
/-! DEFINITION. The SM4 cipher core (41_sm4.md): tau, the linear transforms, the key schedule and the block
transform as functions; the same over the engine's registers; and the three SM4 commands (R200 to R202). -/

namespace Sys2Proof.Machine

/-- tau (R193): SBOX on each byte of a word. -/
def sm4Tau (x : Word) : Word :=
  sbox (x.extractLsb' 24 8) ++ sbox (x.extractLsb' 16 8) ++ sbox (x.extractLsb' 8 8) ++ sbox (x.extractLsb' 0 8)

/-- L, the linear transform of the round function (R194). -/
def sm4L (x : Word) : Word := x ^^^ rotl x 2 ^^^ rotl x 10 ^^^ rotl x 18 ^^^ rotl x 24

/-- L', the linear transform of the key schedule (R195). -/
def sm4LKey (x : Word) : Word := x ^^^ rotl x 13 ^^^ rotl x 23

/-- T, of the round function (R196). -/
def sm4T (x : Word) : Word := sm4L (sm4Tau x)

/-- T', of the key schedule (R196). -/
def sm4TKey (x : Word) : Word := sm4LKey (sm4Tau x)

/-- The words `z[i+4] <- z[i] xor F(z[i+1] xor z[i+2] xor z[i+3] xor c[i])` for each round word c[i], from the
window z[i..i+3]: the recurrence the block transform (R197) and the key schedule (R198) share. -/
def sm4Window (F : Word → Word) : List Word → Word → Word → Word → Word → List Word
  | [], _, _, _, _ => []
  | c :: cs, z0, z1, z2, z3 =>
    (z0 ^^^ F (z1 ^^^ z2 ^^^ z3 ^^^ c)) :: sm4Window F cs z1 z2 z3 (z0 ^^^ F (z1 ^^^ z2 ^^^ z3 ^^^ c))

/-- X[0..35] of a 16-byte block under the round keys in the order the rounds use them (R197). -/
def sm4X (rk : List Word) (P : List Byte) : List Word :=
  [be32 P 0, be32 P 4, be32 P 8, be32 P 12]
    ++ sm4Window sm4T rk (be32 P 0) (be32 P 4) (be32 P 8) (be32 P 12)

/-- The output block of the words X[0..35]: X[35] first (R197, 20_memory.md R82). -/
def sm4Out (x : Vector Word 36) : List Byte := bytes32 x[35] ++ bytes32 x[34] ++ bytes32 x[33] ++ bytes32 x[32]

/-- `sm4_block(rk, P)` (R197). -/
def sm4Block (rk : List Word) (P : List Byte) : List Byte := sm4Out (regFile 36 (sm4X rk P))

/-- K[k], k = 0..3: the key words xor FK (R198). -/
def sm4K0 (key : List Byte) (k : Fin 4) : Word := be32 key (4 * k.val) ^^^ sm4Fk[k]

/-- The words K[4..35] the key schedule computes, which are the round keys (R198). -/
def sm4RoundKeys (key : List Byte) : List Word :=
  sm4Window sm4TKey sm4Ck (sm4K0 key 0) (sm4K0 key 1) (sm4K0 key 2) (sm4K0 key 3)

/-- `sm4_keyexp(KEY)`, RKS[0..31] (R198). -/
def sm4Keyexp (key : List Byte) : Vector Word 32 := regFile 32 (sm4RoundKeys key)

/-- The round keys in the order encryption consumes them (R199). -/
def encOrder (rk : Vector Word 32) : List Word := rk.toList

/-- The round keys in the order decryption consumes them, index 31 down to 0 (R199). -/
def decOrder (rk : Vector Word 32) : List Word := rk.toList.reverse

/-- `sm4_enc(rk, P)` (R199). -/
def sm4Enc (rk : Vector Word 32) (P : List Byte) : List Byte := sm4Block (encOrder rk) P

/-- `sm4_dec(rk, C)` (R199). -/
def sm4Dec (rk : Vector Word 32) (C : List Byte) : List Byte := sm4Block (decOrder rk) C

/-- The key schedule through the engine's registers K, RKS and i (R203). -/
def Datapath.keyExp (key : List Byte) (d : Datapath) : Datapath :=
  { d with
    k := regFile 36 ([sm4K0 key 0, sm4K0 key 1, sm4K0 key 2, sm4K0 key 3] ++ sm4RoundKeys key)
    rks := regFile 32 (sm4RoundKeys key), i := 31 }

/-- One block transform through the registers X and i (R203); its result is `sm4Out` of X. -/
def Datapath.block (rk : List Word) (P : List Byte) (d : Datapath) : Datapath :=
  { d with x := regFile 36 (sm4X rk P), i := 31 }

/-- SM4_KEYEXP (R200): RK and RKV; DST is not written and SRCLEN is not read. -/
def execSm4Keyexp (s : State) : Host.Outcome State Fault Refusal :=
  s.runChecked [(keyLenBad s, .invalidKeyLength)]
    { dst := [], v := none, rk := some (s.dp.keyExp s.keyBytes).rks }

/-- The check row of the two block commands (60_exceptions.md R283). -/
def blockChecks (s : State) : List (Bool × CmdError) :=
  [(srcTooLong s, .sourceLengthOutOfRange), (blockLenBad 16 s, .invalidBlockLength),
    (keysNotLoaded s, .roundKeysNotLoaded)]

/-- SM4_ENC_BLOCK (R201). -/
def execSm4EncBlock (s : State) : Host.Outcome State Fault Refusal :=
  s.runChecked (blockChecks s)
    { dst := sm4Out (s.dp.block (encOrder s.snap.rk) (s.memRead .src 0 16)).x, v := none, rk := none }

/-- SM4_DEC_BLOCK (R202). -/
def execSm4DecBlock (s : State) : Host.Outcome State Fault Refusal :=
  s.runChecked (blockChecks s)
    { dst := sm4Out (s.dp.block (decOrder s.snap.rk) (s.memRead .src 0 16)).x, v := none, rk := none }

end Sys2Proof.Machine
end

