-- ==== Sys2Proof/Machine/Modes.lean ====
section
/-! DEFINITION. The ECB/CBC mode sequencer (43_modes.md): the mode functions (R252 to R255), the same over the
sequencer's registers in the order of R262, and the four mode commands (R256 to R259). -/

namespace Sys2Proof.Machine

/-- The blocks of a byte string in increasing b (R251). -/
def blocks16 (S : List Byte) : List (List Byte) := (List.range (S.length / 16)).map (blockOf 16 S)

/-- `ecb_enc(rk, P)` (R252): pad, then each block on its own. -/
def ecbEnc (rk : Vector Word 32) (P : List Byte) : List Byte := (blocks16 (pkcs7Pad P)).flatMap (sm4Enc rk)

/-- `ecb_dec(rk, C)` (R253). -/
def ecbDec (rk : Vector Word 32) (C : List Byte) : List Byte := pkcs7Unpad ((blocks16 C).flatMap (sm4Dec rk))

/-- The loop of R254 from a chaining value: each block is xored with CHAIN, encrypted, and becomes CHAIN. -/
def cbcEncLoop (rk : Vector Word 32) : List Byte → List (List Byte) → List Byte
  | _, [] => []
  | chain, p :: ps => sm4Enc rk (xorBytes p chain) ++ cbcEncLoop rk (sm4Enc rk (xorBytes p chain)) ps

/-- `cbc_enc(rk, IV, P)` (R254). -/
def cbcEnc (rk : Vector Word 32) (iv P : List Byte) : List Byte := cbcEncLoop rk iv (blocks16 (pkcs7Pad P))

/-- The loop of R255 from a chaining value: CHAIN takes the ciphertext block. -/
def cbcDecLoop (rk : Vector Word 32) : List Byte → List (List Byte) → List Byte
  | _, [] => []
  | chain, c :: cs => xorBytes (sm4Dec rk c) chain ++ cbcDecLoop rk c cs

/-- `cbc_dec(rk, IV, C)` (R255). -/
def cbcDec (rk : Vector Word 32) (iv C : List Byte) : List Byte := pkcs7Unpad (cbcDecLoop rk iv (blocks16 C))

/-- CHAIN <- IV, of the CBC commands only (R254, R255). -/
def Datapath.loadIv (iv : List Byte) (d : Datapath) : Datapath := { d with chain := regFile 16 iv }

/-- The sequencer before block 0 (R262): the key schedule, NB, RES <- []. -/
def Datapath.modeStart (key : List Byte) (nb : Nat) (d : Datapath) : Datapath :=
  { d.keyExp key with nb := nb, b := 0, res := [] }

/-- ECB encryption of block b of the padded source through the registers (R252). -/
def Datapath.ecbEncBlock (P : List Byte) (d : Datapath) : Datapath :=
  let d := d.block (encOrder d.rks) P
  { d with res := d.res ++ sm4Out d.x }

/-- ECB decryption of one block through the registers (R253). -/
def Datapath.ecbDecBlock (C : List Byte) (d : Datapath) : Datapath :=
  let d := d.block (decOrder d.rks) C
  { d with res := d.res ++ sm4Out d.x }

/-- CBC encryption of one block through the registers (R254). -/
def Datapath.cbcEncBlock (P : List Byte) (d : Datapath) : Datapath :=
  let d := d.block (encOrder d.rks) (xorBytes P d.chain.toList)
  { d with res := d.res ++ sm4Out d.x, chain := regFile 16 (sm4Out d.x) }

/-- CBC decryption of one block through the registers (R255). -/
def Datapath.cbcDecBlock (C : List Byte) (d : Datapath) : Datapath :=
  let d := d.block (decOrder d.rks) C
  { d with res := d.res ++ xorBytes (sm4Out d.x) d.chain.toList, chain := regFile 16 C }

/-- Blocks 0 .. NB-1 in increasing b (R251, R262). -/
def Datapath.overBlocks (f : List Byte → Datapath → Datapath) (S : List Byte) (d : Datapath) : Datapath :=
  (List.range d.nb).foldl (fun d b => f (blockOf 16 S b) { d with b := b }) d

/-- RES unpadded, the last step of a decryption (R253, R255, R262). -/
def Datapath.unpadRes (d : Datapath) : Datapath := { d with res := pkcs7Unpad d.res }

/-- A mode command's datapath from its operands: key schedule, then the blocks of the source (R262). -/
def Datapath.runMode (f : List Byte → Datapath → Datapath) (key S : List Byte) (d : Datapath) : Datapath :=
  (d.modeStart key (S.length / 16)).overBlocks f S

/-- What a mode command commits: RES into DST, the round keys into RK (R250). -/
def modeOutputs (d : Datapath) : Outputs := { dst := d.res, v := none, rk := some d.rks }

/-- ECB_ENC (R256); IVLEN and IV are not read. -/
def execEcbEnc (s : State) : Host.Outcome State Fault Refusal :=
  s.runChecked [(srcTooLong s, .sourceLengthOutOfRange), (keyLenBad s, .invalidKeyLength)]
    (modeOutputs (s.dp.runMode Datapath.ecbEncBlock s.keyBytes (pkcs7Pad s.srcBytes)))

/-- ECB_DEC (R257). -/
def execEcbDec (s : State) : Host.Outcome State Fault Refusal :=
  s.runChecked
    [(srcTooLong s, .sourceLengthOutOfRange), (keyLenBad s, .invalidKeyLength),
      (cipherLenBad s, .invalidCiphertextLength)]
    (modeOutputs (s.dp.runMode Datapath.ecbDecBlock s.keyBytes s.srcBytes).unpadRes)

/-- CBC_ENC (R258). -/
def execCbcEnc (s : State) : Host.Outcome State Fault Refusal :=
  s.runChecked
    [(srcTooLong s, .sourceLengthOutOfRange), (keyLenBad s, .invalidKeyLength), (ivLenBad s, .invalidIvLength)]
    (modeOutputs ((s.dp.loadIv s.ivBytes).runMode Datapath.cbcEncBlock s.keyBytes (pkcs7Pad s.srcBytes)))

/-- CBC_DEC (R259). -/
def execCbcDec (s : State) : Host.Outcome State Fault Refusal :=
  s.runChecked
    [(srcTooLong s, .sourceLengthOutOfRange), (keyLenBad s, .invalidKeyLength), (ivLenBad s, .invalidIvLength),
      (cipherLenBad s, .invalidCiphertextLength)]
    (modeOutputs ((s.dp.loadIv s.ivBytes).runMode Datapath.cbcDecBlock s.keyBytes s.srcBytes).unpadRes)

end Sys2Proof.Machine
end

