-- ==== Sys2Proof/Machine/Sm3.lean ====
section
/-! DEFINITION. The SM3 hash engine (40_sm3.md): padding, the Boolean and permutation functions, message expansion,
the round, the compression function CF and the hash as functions; the same steps over the engine's registers in the
datapath order of R153; and the three SM3 commands (R160 to R162). -/

namespace Sys2Proof.Machine

/-- `sm3_pad` (R142): the byte 0x80, `(55 - len) mod 64` zero bytes, the bit length as 64 big-endian bits. -/
def sm3Pad (M : List Byte) : List Byte :=
  M ++ [0x80] ++ List.replicate ((119 - M.length % 64) % 64) 0 ++ bytes64 (BitVec.ofNat 64 (8 * M.length))

/-- FF (R144). -/
def sm3FF (x y z : Word) (j : Nat) : Word :=
  if j < 16 then x ^^^ y ^^^ z else (x &&& y) ||| (x &&& z) ||| (y &&& z)

/-- GG (R145). -/
def sm3GG (x y z : Word) (j : Nat) : Word :=
  if j < 16 then x ^^^ y ^^^ z else (x &&& y) ||| (~~~x &&& z)

/-- P0 (R146). -/
def sm3P0 (x : Word) : Word := x ^^^ rotl x 9 ^^^ rotl x 17

/-- P1 (R147). -/
def sm3P1 (x : Word) : Word := x ^^^ rotl x 15 ^^^ rotl x 23

/-- W[j] for j >= 16 from the words before it (R148). -/
def sm3NextW (w : List Word) (j : Nat) : Word :=
  sm3P1 (w.getD (j - 16) 0 ^^^ w.getD (j - 9) 0 ^^^ rotl (w.getD (j - 3) 0) 15)
    ^^^ rotl (w.getD (j - 13) 0) 7 ^^^ w.getD (j - 6) 0

/-- W[0..15], the block's big-endian words (R148, 20_memory.md R81). -/
def sm3LoadW (B : List Byte) : List Word := (List.range 16).map fun j => be32 B (4 * j)

/-- W[0..67] of a 64-byte block, in increasing j (R148). -/
def sm3W (B : List Byte) : List Word :=
  (List.range' 16 52).foldl (fun w j => w ++ [sm3NextW w j]) (sm3LoadW B)

/-- W1[0..63] (R148). -/
def sm3W1 (w : List Word) : List Word := (List.range 64).map fun j => w.getD j 0 ^^^ w.getD (j + 4) 0

/-- Round j (R149): every right-hand side reads the words from before the round. -/
def sm3Round (j : Nat) (t : Work) (wj w1j : Word) : Work :=
  let ss1 := rotl (rotl t.a 12 + t.e + rotl (sm3T j) (j % 32)) 7
  let ss2 := ss1 ^^^ rotl t.a 12
  let tt1 := sm3FF t.a t.b t.c j + t.d + ss2 + w1j
  let tt2 := sm3GG t.e t.f t.g j + t.h + ss1 + wj
  { a := tt1, b := t.a, c := rotl t.b 9, d := t.c, e := sm3P0 tt2, f := t.e, g := rotl t.f 19, h := t.g }

/-- The 64 rounds in increasing j (R150). -/
def sm3Rounds (w w1 : List Word) (t : Work) : Work :=
  (List.range 64).foldl (fun t j => sm3Round j t (w.getD j 0) (w1.getD j 0)) t

/-- A..H as copies of the chaining value (R150). -/
def workOf (v : Vector Word 8) : Work :=
  { a := v[0], b := v[1], c := v[2], d := v[3], e := v[4], f := v[5], g := v[6], h := v[7] }

/-- The feed-forward of R150. -/
def sm3Feed (t : Work) (v : Vector Word 8) : Vector Word 8 :=
  #v[t.a ^^^ v[0], t.b ^^^ v[1], t.c ^^^ v[2], t.d ^^^ v[3], t.e ^^^ v[4], t.f ^^^ v[5], t.g ^^^ v[6], t.h ^^^ v[7]]

/-- The compression function CF (R150). -/
def sm3CF (v : Vector Word 8) (B : List Byte) : Vector Word 8 :=
  sm3Feed (sm3Rounds (sm3W B) (sm3W1 (sm3W B)) (workOf v)) v

/-- Eight words serialised big-endian, the digest form (20_memory.md R81). -/
def digestBytes (v : Vector Word 8) : List Byte := v.toList.flatMap bytes32

/-- The chaining value after blocks 0 .. n-1 of a padded message (R151). -/
def sm3Chain (pm : List Byte) (n : Nat) : Vector Word 8 :=
  (List.range n).foldl (fun vs b => sm3CF vs (blockOf 64 pm b)) sm3Iv

/-- The final chaining value of a message (R151). -/
def sm3Words (M : List Byte) : Vector Word 8 := sm3Chain (sm3Pad M) ((sm3Pad M).length / 64)

/-- `sm3(M)`, the 32-byte digest (R151). -/
def sm3 (M : List Byte) : List Byte := digestBytes (sm3Words M)

/-- One block through the engine's registers, in the order of R153: W, W1, A..H from VS, the rounds, the
feed-forward into VS. -/
def Datapath.sm3Block (B : List Byte) (d : Datapath) : Datapath :=
  let w := sm3W B
  let t := sm3Rounds w (sm3W1 w) (workOf d.vs)
  { d with w := regFile 68 w, w1 := regFile 64 (sm3W1 w), work := t, j := 63, vs := sm3Feed t d.vs }

/-- SM3_HASH through the registers: PM, VS and BLK as R151 writes them. -/
def Datapath.sm3Hash (M : List Byte) (d : Datapath) : Datapath :=
  (List.range ((sm3Pad M).length / 64)).foldl (fun d b => ({ d with blk := b } : Datapath).sm3Block (blockOf 64 d.pm b))
    { d with pm := sm3Pad M, vs := sm3Iv }

/-- SM3_COMPRESS through the registers: the chaining value V, then one block. -/
def Datapath.sm3Compress (v : Vector Word 8) (B : List Byte) (d : Datapath) : Datapath :=
  ({ d with vs := v } : Datapath).sm3Block B

/-- What a command that leaves a chaining value commits: DST[0..32) and V (R160, R162). -/
def chainOutputs (v : Vector Word 8) : Outputs := { dst := digestBytes v, v := some v, rk := none }

/-- SM3_HASH (R160). -/
def execSm3Hash (s : State) : Host.Outcome State Fault Refusal :=
  s.runChecked [(srcTooLong s, .sourceLengthOutOfRange)] (chainOutputs (s.dp.sm3Hash s.srcBytes).vs)

/-- SM3_INIT (R161): V <- SM3_IV, DSTLEN <- 0; DST is not written. -/
def execSm3Init (s : State) : Host.Outcome State Fault Refusal :=
  s.runChecked [] { dst := [], v := some sm3Iv, rk := none }

/-- SM3_COMPRESS (R162). -/
def execSm3Compress (s : State) : Host.Outcome State Fault Refusal :=
  s.runChecked [(srcTooLong s, .sourceLengthOutOfRange), (blockLenBad 64 s, .invalidBlockLength)]
    (chainOutputs (s.dp.sm3Compress s.snap.v (s.memRead .src 0 64)).vs)

end Sys2Proof.Machine
end

