-- ==== Sys2Proof/Machine/Dispatch.lean ====
section
/-! DEFINITION. One arm per command: the meaning of each, by its own definition. -/

namespace Sys2Proof.Machine

def exec (i : Instr) (s : State) : Host.Outcome State Fault Refusal :=
  match i with
  | .sm3Hash => Sys2Proof.Machine.execSm3Hash s
  | .sm3Init => Sys2Proof.Machine.execSm3Init s
  | .sm3Compress => Sys2Proof.Machine.execSm3Compress s
  | .sm4Keyexp => Sys2Proof.Machine.execSm4Keyexp s
  | .sm4EncBlock => Sys2Proof.Machine.execSm4EncBlock s
  | .sm4DecBlock => Sys2Proof.Machine.execSm4DecBlock s
  | .ecbEnc => Sys2Proof.Machine.execEcbEnc s
  | .ecbDec => Sys2Proof.Machine.execEcbDec s
  | .cbcEnc => Sys2Proof.Machine.execCbcEnc s
  | .cbcDec => Sys2Proof.Machine.execCbcDec s
  | .pkcs7Pad => Sys2Proof.Machine.execPkcs7Pad s
  | .pkcs7Unpad => Sys2Proof.Machine.execPkcs7Unpad s

end Sys2Proof.Machine
end

