-- ==== Sys2Proof/Decode.lean ====
section
/-! DEFINITION. The command word (30_encoding.md): its fields (R111), the total decoder (R113) that rejects every
other word by the name of R115's class, and the encoder written from the same field tables (R111, R112). -/

namespace Sys2Proof

/-- Why a word is no command: the five classes of R115. -/
inductive Illegal where
  /-- CMD[31:8] is not 0. -/
  | rsvdNonzero
  /-- OP = 0x00. -/
  | opZero
  /-- UNIT is 4 or more. -/
  | unitAbsent
  /-- A function number that unit 0, 1 or 3 does not use. -/
  | fnUnused
  /-- UNIT = 2 with FN_HI not 0. -/
  | fnHiNonzero
deriving DecidableEq, Repr

/-- What a word decodes to (R113): `Command | Illegal`. -/
inductive Decoded where
  | command (i : Instr)
  | illegal (why : Illegal)
deriving DecidableEq, Repr

/-- RSVD, bits 31:8 (R111). -/
def rsvdField (w : Word) : BitVec 24 := w.extractLsb' 8 24

/-- OP, bits 7:0 (R111). -/
def opField (w : Word) : BitVec 8 := w.extractLsb' 0 8

/-- UNIT, bits 7:4 (R111). -/
def unitField (w : Word) : BitVec 4 := w.extractLsb' 4 4

/-- FN, bits 3:0 (R111). -/
def fnField (w : Word) : BitVec 4 := w.extractLsb' 0 4

/-- The class of R115 an opcode byte outside the map of R112 falls in. -/
def illegalOp (op : BitVec 8) : Illegal :=
  if op = 0 then .opZero
  else if 4 ≤ (op.extractLsb' 4 4).toNat then .unitAbsent
  else if (op.extractLsb' 4 4).toNat = 2 then .fnHiNonzero
  else .fnUnused

/-- R113's case distinction on the opcode byte. -/
def decodeOp (op : BitVec 8) : Decoded :=
  match op.toNat with
  | 0x01 => .command .sm3Hash
  | 0x02 => .command .sm3Init
  | 0x03 => .command .sm3Compress
  | 0x10 => .command .sm4Keyexp
  | 0x11 => .command .sm4EncBlock
  | 0x12 => .command .sm4DecBlock
  | 0x20 => .command .ecbEnc
  | 0x21 => .command .ecbDec
  | 0x22 => .command .cbcEnc
  | 0x23 => .command .cbcDec
  | 0x30 => .command .pkcs7Pad
  | 0x31 => .command .pkcs7Unpad
  | _ => .illegal (illegalOp op)

/-- R113's `decode`: total on the 2^32 words, and a function of the word alone (R116). -/
def decode (w : Word) : Decoded :=
  if rsvdField w ≠ 0 then .illegal .rsvdNonzero else decodeOp (opField w)

/-- UNIT of each command (R111, R112): 0 the SM3 engine, 1 the SM4 cipher core, 2 the mode layer, 3 the padding
unit. -/
def unitOf : Instr → BitVec 4
  | .sm3Hash => 0
  | .sm3Init => 0
  | .sm3Compress => 0
  | .sm4Keyexp => 1
  | .sm4EncBlock => 1
  | .sm4DecBlock => 1
  | .ecbEnc => 2
  | .ecbDec => 2
  | .cbcEnc => 2
  | .cbcDec => 2
  | .pkcs7Pad => 3
  | .pkcs7Unpad => 3

/-- The function field of the mode layer (R111): FN_HI = 0b00, MODE (0 = ECB, 1 = CBC), DIR (0 = encrypt,
1 = decrypt). -/
def modeFn (mode dir : BitVec 1) : BitVec 4 := (0 : BitVec 2) ++ mode ++ dir

/-- FN of each command (R111, R112). -/
def fnOf : Instr → BitVec 4
  | .sm3Hash => 1
  | .sm3Init => 2
  | .sm3Compress => 3
  | .sm4Keyexp => 0
  | .sm4EncBlock => 1
  | .sm4DecBlock => 2
  | .ecbEnc => modeFn 0 0
  | .ecbDec => modeFn 0 1
  | .cbcEnc => modeFn 1 0
  | .cbcDec => modeFn 1 1
  | .pkcs7Pad => 0
  | .pkcs7Unpad => 1

/-- The command word of a command: RSVD = 0, UNIT, FN (R111). -/
def encode (i : Instr) : Word := (0 : BitVec 24) ++ unitOf i ++ fnOf i

/-- The command a decoded word stands for, if any. -/
def commandOf : Decoded → Option Instr
  | .command i => some i
  | .illegal _ => none

/-- The number the opcode table's `nbits` low bits give, the bits above them 0. -/
def tableNumber (nbits w : Nat) : Nat := w % 2 ^ nbits

/-- What the decoder reads from an opcode-table word. A command is one 32-bit word (R110), which a host writes
whole (20_memory.md R84), so there is no byte order to apply; a number that does not fit in 32 bits is no
command. -/
def decodeTableWord (nbits w : Nat) : Option Instr :=
  if tableNumber nbits w < 2 ^ 32 then commandOf (decode (BitVec.ofNat 32 (tableNumber nbits w))) else none

end Sys2Proof
end

