-- ==== Sys2Proof/WellFormed.lean ====
section
/-! DEFINITION. Well-formedness of what is written down from outside: a command (no operand, so no condition), a
host statement (20_memory.md R84, R89) and a host program (30_encoding.md R117: a branch names a position of the
program). The platform's condition is Platform.wf in Config.lean. -/

namespace Sys2Proof

/-- Every command is well formed: no command word carries an operand (R114). -/
def Instr.wf : Instr → Bool
  | .sm3Hash => true
  | .sm3Init => true
  | .sm3Compress => true
  | .sm4Keyexp => true
  | .sm4EncBlock => true
  | .sm4DecBlock => true
  | .ecbEnc => true
  | .ecbDec => true
  | .cbcEnc => true
  | .cbcDec => true
  | .pkcs7Pad => true
  | .pkcs7Unpad => true

namespace Machine

/-- A bus access is a whole word (R84) at an address `MMIO_BASE + 4*k`, k = 0x00..0x3F (R88, R89). -/
def busWf (p : Platform) (addr size : Nat) : Bool :=
  decide (size = 4) && decide (p.mmioBase ≤ addr) && decide ((addr - p.mmioBase) % 4 = 0)
    && decide ((addr - p.mmioBase) / 4 < 64)

/-- A statement the core has a behaviour for (R84, R88, R336), labels apart. -/
def Stmt.wf (p : Platform) : Stmt → Bool
  | .wr reg _ => decide (reg < 64)
  | .rd reg _ => decide (reg < 64)
  | .wb _ _ _ => true
  | .rb _ _ _ => true
  | .busWr addr size _ => busWf p addr size
  | .busRd addr size _ => busWf p addr size
  | .label _ => true
  | .bnz _ _ _ => true
  | .reset => true

/-- The label of a branch stands in the program. -/
def Stmt.labelKnown (prog : List Stmt) : Stmt → Bool
  | .bnz _ _ l => prog.contains (.label l)
  | .wr _ _ => true
  | .rd _ _ => true
  | .wb _ _ _ => true
  | .rb _ _ _ => true
  | .busWr _ _ _ => true
  | .busRd _ _ _ => true
  | .label _ => true
  | .reset => true

/-- A program the core has a behaviour for at every statement. -/
def programWf (p : Platform) (prog : List Stmt) : Bool :=
  prog.all fun st => st.wf p && st.labelKnown prog

end Machine
end Sys2Proof
end

