-- ==== Sys2Proof/Machine/HostPort.lean ====
section
/-! DEFINITION. The host side of the core: the register map (10_state.md R31) with its reads and writes, idle and
busy (20_memory.md R92 to R94), the buffer accesses (R85, R90), the register accesses by bus address (R84, R88,
R89), the host statements (30_encoding.md R117) with RESET (70_reset_and_hazards.md R320), and who moves next
(R332). -/

namespace Sys2Proof.Machine

/-- The registers of R31 by name. -/
inductive Reg where
  | cmd
  | status
  | srclenLo
  | srclenHi
  | keylen
  | ivlen
  | dstlenLo
  | dstlenHi
  | v (k : Fin 8)
  | rk (i : Fin 32)
  | reserved
deriving DecidableEq, Repr

/-- The register at an index 0x00..0x3F (R31); none outside the map (R41). -/
def regAt (k : Nat) : Option Reg :=
  if k = 0x00 then some .cmd
  else if k = 0x01 then some .status
  else if k = 0x02 then some .srclenLo
  else if k = 0x03 then some .srclenHi
  else if k = 0x04 then some .keylen
  else if k = 0x05 then some .ivlen
  else if k = 0x06 then some .dstlenLo
  else if k = 0x07 then some .dstlenHi
  else if k < 0x10 then some (.v (Fin.ofNat 8 (k - 0x08)))
  else if k < 0x30 then some (.rk (Fin.ofNat 32 (k - 0x10)))
  else if k < 0x40 then some .reserved
  else none

/-- A read whose value the spec leaves unspecified under `unspecified`, and is `v` otherwise. -/
def State.readOr (unspecified : Bool) (v : Word) (s : State) : Word × State := if unspecified then s.draw else (v, s)

/-- A host register read: the value and the state after it, which differs in the draw counter only (R92). While
BUSY the output registers are unspecified (R94); RK is unspecified while RKV = 0 (R40, U1). -/
def State.readReg (r : Reg) (s : State) : Word × State :=
  match r with
  | .cmd => (s.cmd, s)
  | .status => (s.status.word, s)
  | .srclenLo => (s.srclenLo, s)
  | .srclenHi => (s.srclenHi, s)
  | .keylen => (s.keylen, s)
  | .ivlen => (s.ivlen, s)
  | .dstlenLo => s.readOr s.status.busy s.dstlenLo
  | .dstlenHi => s.readOr s.status.busy s.dstlenHi
  | .v k => s.readOr s.status.busy s.v[k]
  | .rk i => s.readOr (s.status.busy || !s.status.rkv) s.rk[i]
  | .reserved => (0, s)

/-- A host register write while BUSY = 0: CMD starts a command (R32); STATUS, DSTLEN and RK are read-only and a
write to them or to a reserved index changes nothing (R31, R33, R41; log entry 10). -/
def State.writeRegIdle (r : Reg) (v : Word) (s : State) : State :=
  match r with
  | .cmd => s.accept v
  | .status => s
  | .srclenLo => { s with srclenLo := v }
  | .srclenHi => { s with srclenHi := v }
  | .keylen => { s with keylen := v }
  | .ivlen => { s with ivlen := v }
  | .dstlenLo => s
  | .dstlenHi => s
  | .v k => { s with v := s.v.set k v }
  | .rk _ => s
  | .reserved => s

/-- A host register write: ignored while BUSY = 1 (R93). -/
def State.writeReg (r : Reg) (v : Word) (s : State) : State :=
  if s.status.busy then s else s.writeRegIdle r v

/-- `HostBufWrite` (R85): ignored while BUSY = 1 (R93), beyond the capacity (R90), and in DST (R85). -/
def State.hostStore (sp : Space) (off : Nat) (v : Byte) (s : State) : State :=
  if s.status.busy then s else if off < s.plat.cap sp then s.storeByte sp off v else s

/-- Whether a host buffer read is unspecified: beyond the capacity (R90; for DST log entry 11), or DST while
BUSY = 1 (R94). -/
def State.bufReadOpen (sp : Space) (off : Nat) (s : State) : Bool :=
  decide (s.plat.cap sp ≤ off) || (s.status.busy && decide (sp = .dst))

/-- `HostBufRead` (R85): the byte, as a word, and the state after it. An unspecified read is a byte of a fresh
draw. -/
def State.hostLoad (sp : Space) (off : Nat) (s : State) : Word × State :=
  if s.bufReadOpen sp off then (s.draw.1 &&& 0xFF, s.draw.2) else ((s.readByte sp off).setWidth 32, s)

/-- The index of the register at a bus address, or the name of the refusal (R84, R88, R89). -/
def busIndex (p : Platform) (addr size : Nat) : Except Refusal Nat :=
  if addr < p.mmioBase ∨ p.mmioBase + 256 ≤ addr then .error .outsideRegisterMap
  else if size ≠ 4 then .error .partialRegisterAccess
  else if (addr - p.mmioBase) % 4 ≠ 0 then .error .misalignedRegisterAccess
  else .ok ((addr - p.mmioBase) / 4)

/-- The value an earlier read gave a name; the newest one. -/
def lookup (n : Name) : List (Name × Word) → Option Word
  | [] => none
  | (m, v) :: env => if n = m then some v else lookup n env

/-- The value of a statement's operand. -/
def State.valOf (s : State) : Val → Option Word
  | .imm v => some v
  | .named n => lookup n s.host.env

/-- Give a read's value its name. -/
def State.bindName (n : Name) (v : Word) (s : State) : State :=
  { s with host := { s.host with env := (n, v) :: s.host.env } }

/-- The host's next statement becomes the one at `pos`. -/
def State.hostAt (pos : Nat) (s : State) : State := { s with host := { s.host with pos := pos } }

/-- Position of a label in a program (R117). Where one label stands twice the spec is silent, and the first is taken
(DESIGN CHOICE, unsafe, log entry 20). -/
def labelPos (l : Nat) : List Stmt → Option Nat
  | [] => none
  | st :: rest => if st = .label l then some 0 else (labelPos l rest).map (· + 1)

/-- `WR` by index. -/
def State.hostWr (k : Nat) (v : Val) (s : State) : Host.Outcome State Fault Refusal :=
  match regAt k, s.valOf v with
  | none, _ => .refused .outsideRegisterMap
  | some _, none => .refused .nameUnread
  | some r, some x => .next (s.writeReg r x)

/-- `RD` by index. -/
def State.hostRd (k : Nat) (n : Name) (s : State) : Host.Outcome State Fault Refusal :=
  match regAt k with
  | none => .refused .outsideRegisterMap
  | some r => .next ((s.readReg r).2.bindName n (s.readReg r).1)

/-- `WB`: the byte is bits 7:0 of the operand. -/
def State.hostWb (sp : Space) (off : Nat) (v : Val) (s : State) : Host.Outcome State Fault Refusal :=
  match s.valOf v with
  | none => .refused .nameUnread
  | some x => .next (s.hostStore sp off (x.extractLsb' 0 8))

/-- `RB`. -/
def State.hostRb (sp : Space) (off : Nat) (n : Name) (s : State) : Host.Outcome State Fault Refusal :=
  .next ((s.hostLoad sp off).2.bindName n (s.hostLoad sp off).1)

/-- A register write by bus address. -/
def State.hostBusWr (addr size : Nat) (v : Val) (s : State) : Host.Outcome State Fault Refusal :=
  match busIndex s.plat addr size with
  | .error r => .refused r
  | .ok k => s.hostWr k v

/-- A register read by bus address. -/
def State.hostBusRd (addr size : Nat) (n : Name) (s : State) : Host.Outcome State Fault Refusal :=
  match busIndex s.plat addr size with
  | .error r => .refused r
  | .ok k => s.hostRd k n

/-- `BNZ <name>, <mask>, <label>`: continue at the label if `(<name> & <mask>) != 0` (R117). -/
def State.hostBnz (n : Name) (mask : Word) (l : Nat) (s : State) : Host.Outcome State Fault Refusal :=
  match lookup n s.host.env with
  | none => .refused .nameUnread
  | some x =>
    if x &&& mask = 0 then .next s
    else
      match labelPos l s.host.prog with
      | none => .refused .labelAbsent
      | some p => .next (s.hostAt p)

/-- One host statement (R117, R320), the host's position already past it. -/
def State.hostExec (st : Stmt) (s : State) : Host.Outcome State Fault Refusal :=
  match st with
  | .wr k v => s.hostWr k v
  | .rd k n => s.hostRd k n
  | .wb sp off v => s.hostWb sp off v
  | .rb sp off n => s.hostRb sp off n
  | .busWr addr size v => s.hostBusWr addr size v
  | .busRd addr size n => s.hostBusRd addr size n
  | .label _ => .next s
  | .bnz n mask l => s.hostBnz n mask l
  | .reset => .next s.resetCore

/-- The host's next statement, if its program is not over. -/
def State.hostStmt (s : State) : Option Stmt := s.host.prog[s.host.pos]?

/-- The host's move: its next statement; when its program is over the core waits (R323, R335). -/
def State.hostStep (s : State) : Host.Outcome State Fault Refusal :=
  match s.hostStmt with
  | none => .next s
  | some st => (s.hostAt (s.host.pos + 1)).hostExec st

/-- Who moves (R30, R332). While BUSY = 0 only the host can. While BUSY = 1 both can, and the interleaving says who;
the engine moves when the interleaving is used up or the host's program is over. -/
def State.turn (s : State) : Agent :=
  if s.status.busy then
    match s.sched, s.hostStmt with
    | .host :: _, some _ => .host
    | .host :: _, none => .engine
    | .engine :: _, _ => .engine
    | [], _ => .engine
  else .host

/-- Use up the interleaving's entry for this step; one is used at each step taken while BUSY = 1. -/
def State.takeTurn (s : State) : State := if s.status.busy then { s with sched := s.sched.tail } else s

end Sys2Proof.Machine
end

