-- ==== Sys2Proof/Machine/Engine.lean ====
section
/-! DEFINITION. The engine's move (10_state.md R55, 60_exceptions.md R285): it reads the latched command word,
decodes it, and runs the command as one atomic step, or the illegal path of R281. -/

namespace Sys2Proof.Machine

/-- The running command, from CMD: there is no program counter and nothing else is fetched (R52, R99). -/
def State.fetched (s : State) : Decoded := decode s.cmd

/-- The engine's step. An illegal word reads no register but CMD and no buffer (R281). -/
def State.engineStep (s : State) : Host.Outcome State Fault Refusal :=
  match s.fetched with
  | .command i => exec i s
  | .illegal _ => .next (s.raiseError .illegalCommand)

end Sys2Proof.Machine
end

