-- ==== Sys2Proof/Machine/Step.lean ====
section
/-! DEFINITION. One step: the agent whose turn it is moves (10_state.md R30, 70_reset_and_hazards.md R332). -/

namespace Sys2Proof.Machine

/-- One step of the host or of the engine. -/
def step (s : State) : Host.Outcome State Fault Refusal :=
  match s.turn with
  | .host => s.takeTurn.hostStep
  | .engine => s.takeTurn.engineStep

/-- The state in which the next step runs exactly the command word `w`: the word has just been accepted (R285), as
by the host's CMD write, and no host move comes before the engine's (log entry 12). -/
def State.withFetchWord (s : State) (nbits w : Nat) : State :=
  { s.accept (BitVec.ofNat 32 (tableNumber nbits w)) with sched := [] }

end Sys2Proof.Machine
end

