-- ==== Sys2Proof/Machine/HostNotation.lean ====
section
/-! DEFINITION. The host's shorthand (30_encoding.md R117, R118): `CMD`, and the expansions of LOAD, SETSRC, WAIT,
RUN, READDST and COPYBACK into host statements. -/

namespace Sys2Proof.Machine

/-- `CMD <mnemonic>`: `WR CMD, <OP>` (R117). -/
def stmtCmd (i : Instr) : Stmt := .wr 0x00 (.imm (encode i))

/-- `LOAD <space>, <hex>` (R118). -/
def stmtsLoad (sp : Space) (bytes : List Byte) : List Stmt :=
  bytes.zipIdx.map fun c => .wb sp c.2 (.imm (c.1.setWidth 32))

/-- `SETSRC <n>` (R118). For n of 2^64 or more, n div 2^32 is no 32-bit value and the spec gives no meaning; its low 32
bits are written (DESIGN CHOICE, unsafe, log entry 21). -/
def stmtsSetSrc (n : Nat) : List Stmt :=
  [.wr 0x02 (.imm (BitVec.ofNat 32 n)), .wr 0x03 (.imm (BitVec.ofNat 32 (n / 2 ^ 32)))]

/-- `WAIT` (R118), with the label `w` and the name `s` it uses. -/
def stmtsWait (w : Nat) (s : Name) : List Stmt := [.label w, .rd 0x01 s, .bnz s 0x1 w]

/-- `RUN <mnemonic>` (R118). -/
def stmtsRun (i : Instr) (w : Nat) (s : Name) : List Stmt := stmtCmd i :: stmtsWait w s

/-- `READDST <n> -> <name>` (R118). -/
def stmtsReadDst (n id : Nat) : List Stmt := (List.range n).map fun k => .rb .dst k ⟨id, k⟩

/-- `COPYBACK <n>` (R118), with the name `t` it uses; its SETSRC follows log entry 21. -/
def stmtsCopyBack (n : Nat) (t : Name) : List Stmt :=
  (List.range n).flatMap (fun k => [.rb .dst k t, .wb .src k (.named t)]) ++ stmtsSetSrc n

end Sys2Proof.Machine
end

