-- ==== Sys2Proof/Safety.lean ====
section
/-! DEFINITION. The terms claims about the machine are stated in: the legal STATUS values (10_state.md R34), the
invariant of every step, what a successful command does and what it leaves alone (R53, 60_exceptions.md R287),
running one command, and streaming a message block by block (40_sm3.md R162). -/

namespace Sys2Proof.Machine

/-- The three observable states of R34: IDLE (where RKV = 0 too, since no command has completed), RUNNING, and
COMPLETE with ERRCODE 0, or with ERR = 1 and a code of R280. -/
def Status.legal (st : Status) : Bool :=
  match st.busy, st.done, st.err with
  | false, false, false => decide (st.errcode = 0) && !st.rkv
  | true, false, false => decide (st.errcode = 0)
  | false, true, false => decide (st.errcode = 0)
  | false, true, true => decide (1 ≤ st.errcode.toNat ∧ st.errcode.toNat ≤ 7)
  | true, true, false => false
  | true, true, true => false
  | true, false, true => false
  | false, false, true => false

/-- What every step keeps. -/
structure State.Inv (s : State) : Prop where
  /-- The platform's parameters are in the ranges of R8 and R88. -/
  plat : s.plat.wf = true
  /-- Each buffer is in canonical form within its capacity (20_memory.md R86). -/
  mem : ∀ sp : Space, Memory.wf (s.plat.cap sp) (s.buf sp) = true
  /-- STATUS is one of the values of R34. -/
  status : s.status.legal = true
  /-- While a command runs its operand snapshot equals the operand registers (R50, R93). -/
  snapshot : s.status.busy = true → s.snap = s.operands
  /-- A command that ended in error left DSTLEN = 0 (60_exceptions.md R286). -/
  noOutput : s.status.err = true → s.dstlen = 0
  /-- DSTLEN never exceeds the DST buffer (20_memory.md R91). -/
  fits : s.dstlen.toNat ≤ s.plat.dstCap

/-- The success outcome with output string `out` (R287, R53): STATUS COMPLETE with no error, DSTLEN the length of
`out`, and DST[0..DSTLEN) the string, every other DST byte as before. -/
structure Succeeded (s t : State) (out : List Byte) : Prop where
  busy : t.status.busy = false
  done : t.status.done = true
  err : t.status.err = false
  errcode : t.status.errcode = 0
  dstlen : t.dstlen = BitVec.ofNat 64 out.length
  bytes : t.memRead .dst 0 out.length = out
  rest : ∀ a, out.length ≤ a → t.readByte .dst a = s.readByte .dst a

/-- What no command changes (R53, R325): the platform, CMD, the operand registers and their snapshot, the bytes of
SRC, KEY and IV, and the host. -/
structure KeepsInputs (s t : State) : Prop where
  plat : t.plat = s.plat
  cmd : t.cmd = s.cmd
  srclenLo : t.srclenLo = s.srclenLo
  srclenHi : t.srclenHi = s.srclenHi
  keylen : t.keylen = s.keylen
  ivlen : t.ivlen = s.ivlen
  snap : t.snap = s.snap
  host : t.host = s.host
  sched : t.sched = s.sched
  epoch : t.epoch = s.epoch
  bytes : ∀ sp a, sp ≠ .dst → t.readByte sp a = s.readByte sp a

/-- The registers and buffers of the core that a host statement other than a write or RESET leaves alone: all of
them; only the host's own record and the draw counter may differ. -/
structure SameCore (s t : State) : Prop where
  plat : t.plat = s.plat
  cmd : t.cmd = s.cmd
  status : t.status = s.status
  srclenLo : t.srclenLo = s.srclenLo
  srclenHi : t.srclenHi = s.srclenHi
  keylen : t.keylen = s.keylen
  ivlen : t.ivlen = s.ivlen
  dstlenLo : t.dstlenLo = s.dstlenLo
  dstlenHi : t.dstlenHi = s.dstlenHi
  v : t.v = s.v
  rk : t.rk = s.rk
  snap : t.snap = s.snap
  dp : t.dp = s.dp
  epoch : t.epoch = s.epoch
  sched : t.sched = s.sched
  bufs : ∀ sp : Space, t.buf sp = s.buf sp

/-- A command from its accepted CMD write to its completion (R285, R326). -/
def State.runCommand (i : Instr) (s : State) : Host.Outcome State Fault Refusal := exec i (s.accept (encode i))

/-- What `LOAD SRC, S` and `SETSRC len(S)` leave while the core is idle (30_encoding.md R118), for a string that fits SRC.
A longer one is no host program's; there every byte is listed and the length is taken mod 2^64 (log entry 21). -/
def State.withSource (S : List Byte) (s : State) : State :=
  { s with
    src := s.src.writeBytes 0 S
    srclenLo := (BitVec.ofNat 64 S.length).extractLsb' 0 32
    srclenHi := (BitVec.ofNat 64 S.length).extractLsb' 32 32 }

/-- The result string a completed command left, DST[0..DSTLEN) (10_state.md R38). -/
def State.result (s : State) : List Byte := s.memRead .dst 0 s.dstlen.toNat

/-- SM3_COMPRESS of each block in turn, each loaded into SRC first (40_sm3.md R162). -/
def State.stream : List (List Byte) → State → Option State
  | [], s => some s
  | B :: Bs, s =>
    match (s.withSource B).runCommand .sm3Compress with
    | .next t => State.stream Bs t
    | .fault _ => none
    | .refused _ => none

/-- The 64-byte blocks of a padded message (40_sm3.md R151). -/
def blocks64 (pm : List Byte) : List (List Byte) := (List.range (pm.length / 64)).map (blockOf 64 pm)

/-- The commands that write V (R53). -/
def writesV : Instr → Bool
  | .sm3Hash => true
  | .sm3Init => true
  | .sm3Compress => true
  | .sm4Keyexp => false
  | .sm4EncBlock => false
  | .sm4DecBlock => false
  | .ecbEnc => false
  | .ecbDec => false
  | .cbcEnc => false
  | .cbcDec => false
  | .pkcs7Pad => false
  | .pkcs7Unpad => false

/-- The commands that write RK and RKV (R40, R53). -/
def writesRk : Instr → Bool
  | .sm3Hash => false
  | .sm3Init => false
  | .sm3Compress => false
  | .sm4Keyexp => true
  | .sm4EncBlock => false
  | .sm4DecBlock => false
  | .ecbEnc => true
  | .ecbDec => true
  | .cbcEnc => true
  | .cbcDec => true
  | .pkcs7Pad => false
  | .pkcs7Unpad => false

end Sys2Proof.Machine
end

