-- ==== Sys2Proof/Certificates/Slice0/Obligations.lean ====
section
/-! DEFINITION. The statements for the provers, from the spec's numbered rules. Each docstring names the rule or the
section of spec/ it rests on. -/

open Sys2Proof Sys2Proof.Machine

/-! ## The command word -/

/-- R113: every word decodes to exactly one result, and the twelve words of the opcode map are the only commands. -/
def Obligations.DecodeExactlyTwelveWords : Prop :=
  ∀ (w : Word) (i : Instr), decode w = .command i ↔
    w = match i with
      | .sm3Hash => 0x00000001#32
      | .sm3Init => 0x00000002#32
      | .sm3Compress => 0x00000003#32
      | .sm4Keyexp => 0x00000010#32
      | .sm4EncBlock => 0x00000011#32
      | .sm4DecBlock => 0x00000012#32
      | .ecbEnc => 0x00000020#32
      | .ecbDec => 0x00000021#32
      | .cbcEnc => 0x00000022#32
      | .cbcDec => 0x00000023#32
      | .pkcs7Pad => 0x00000030#32
      | .pkcs7Unpad => 0x00000031#32

/-- R111 to R113: decode and encode agree. Every command's word decodes to it, every word that decodes to a command is
that command's word, and a numbered table word is read as a command exactly when its number is the command's word. -/
def Obligations.DecodeEncodeAgree : Prop :=
  (∀ i : Instr, i.wf = true → decode (encode i) = .command i) ∧
  (∀ (w : Word) (i : Instr), decode w = .command i → encode i = w) ∧
  ∀ (nbits w : Nat) (i : Instr), decodeTableWord nbits w = some i ↔ w % 2 ^ nbits = (encode i).toNat

/-- 30_encoding.md section 2 and 95_test_vectors.md V-DEC: one word of each unit, and illegal words by their class. -/
def Obligations.SampleWordsDecode : Prop :=
  decode 0x00000001 = .command .sm3Hash ∧ decode 0x00000012 = .command .sm4DecBlock ∧
  decode 0x00000023 = .command .cbcDec ∧ decode 0x00000031 = .command .pkcs7Unpad ∧
  decode 0x00000000 = .illegal .opZero ∧ decode 0x00000004 = .illegal .fnUnused ∧
  decode 0x00000024 = .illegal .fnHiNonzero ∧ decode 0x00000040 = .illegal .unitAbsent ∧
  decode 0x00000101 = .illegal .rsvdNonzero ∧ decode 0xFFFFFFFF = .illegal .rsvdNonzero

/-- R115 and R281: the illegal words are those of the five classes; the engine completes one with IllegalCommand (4)
and DSTLEN = 0, and changes nothing else. -/
def Obligations.IllegalWordsCompleteWithCodeFour : Prop :=
  (∀ w : Word, (∃ why, decode w = .illegal why) ↔
    (rsvdField w ≠ 0 ∨ opField w = 0 ∨ 4 ≤ (unitField w).toNat ∨
      (unitField w = 0 ∧ 4 ≤ (fnField w).toNat) ∨ (unitField w = 1 ∧ 3 ≤ (fnField w).toNat) ∨
      (unitField w = 3 ∧ 2 ≤ (fnField w).toNat) ∨ (unitField w = 2 ∧ 4 ≤ (fnField w).toNat))) ∧
  ∀ (s : State) (why : Illegal), s.turn = .engine → decode s.cmd = .illegal why →
    ∃ t, step s = .next t ∧ t.status.busy = false ∧ t.status.done = true ∧ t.status.err = true ∧
      t.status.errcode = 4 ∧ t.status.rkv = s.status.rkv ∧ t.dstlen = 0 ∧ KeepsInputs s.takeTurn t ∧
      t.v = s.v ∧ t.rk = s.rk ∧ ∀ a, t.readByte .dst a = s.readByte .dst a

/-! ## Steps -/

/-- R55, R285: when it is the engine's turn and CMD decodes to a command, the step is the command's meaning, after
the interleaving's entry for this step is used up. That a command is one step, and the interleaving, are the model's
choices (log entries 13 and 5). -/
def Obligations.EngineStepRunsFetchedCommand : Prop :=
  ∀ (s : State) (i : Instr), s.turn = .engine → decode s.cmd = .command i →
    step s = exec i { s with sched := s.sched.tail }

/-- The fetch word: the very next step runs exactly that command, on the operands as they stand. The placement is
the model's choice (log entry 12). -/
def Obligations.FetchWordRunsNext : Prop :=
  ∀ (s : State) (i : Instr),
    step (s.withFetchWord 32 (encode i).toNat) = exec i (s.withFetchWord 32 (encode i).toNat) ∧
    (s.withFetchWord 32 (encode i).toNat).snap = s.operands

/-- R30, R323, R335: when it is the host's turn the step is the host's next statement; when its program is over and
the core is idle, the core waits. The host's program in State is the model's choice (log entries 5 and 15). -/
def Obligations.HostTurnRunsNextStatement : Prop :=
  ∀ s : State, s.turn = .host →
    (∀ st, s.host.prog[s.host.pos]? = some st →
      step s = (s.takeTurn.hostAt (s.host.pos + 1)).hostExec st) ∧
    (s.host.prog[s.host.pos]? = none → step s = .next s)

/-- R285, R326: from an idle core whose host writes a command word, the next step accepts it, and when the engine
moves next (the model's interleaving, log entry 5) the step after is the command's meaning on the operands as they
stood at the write. -/
def Obligations.CmdWriteThenEngineRunsCommand : Prop :=
  ∀ (s : State) (i : Instr), s.status.busy = false → s.sched = [] → s.hostStmt = some (stmtCmd i) →
    ∃ t, step s = .next t ∧ t.cmd = encode i ∧ t.status.busy = true ∧ t.snap = s.operands ∧ step t = exec i t

/-! ## STATUS and the registers -/

/-- R33: the fields of the STATUS word; the reserved bits 7:4 and 31:12 read as 0; a read has no side effect, idle
or busy, and a write is ignored. -/
def Obligations.StatusWordFields : Prop :=
  (∀ st : Status, st.word.getLsbD 0 = st.busy ∧ st.word.getLsbD 1 = st.done ∧ st.word.getLsbD 2 = st.err ∧
    st.word.getLsbD 3 = st.rkv ∧ st.word.extractLsb' 4 4 = 0 ∧ st.word.extractLsb' 8 4 = st.errcode ∧
    st.word.extractLsb' 12 20 = 0) ∧
  ∀ (s : State) (v : Word), s.readReg .status = (s.status.word, s) ∧ s.writeReg .status v = s

/-- R31, R32, R35 to R41: what a read of each index returns while the core is idle. RK reads are a free draw while
RKV = 0; how a draw is named is the model's choice (log entry 3). -/
def Obligations.IdleRegisterReads : Prop :=
  ∀ (s : State) (n : Name), s.status.busy = false →
    s.hostExec (.rd 0x00 n) = .next (s.bindName n s.cmd) ∧
    s.hostExec (.rd 0x01 n) = .next (s.bindName n s.status.word) ∧
    s.hostExec (.rd 0x02 n) = .next (s.bindName n (s.srclen.extractLsb' 0 32)) ∧
    s.hostExec (.rd 0x03 n) = .next (s.bindName n (s.srclen.extractLsb' 32 32)) ∧
    s.hostExec (.rd 0x04 n) = .next (s.bindName n s.keylen) ∧
    s.hostExec (.rd 0x05 n) = .next (s.bindName n s.ivlen) ∧
    s.hostExec (.rd 0x06 n) = .next (s.bindName n (s.dstlen.extractLsb' 0 32)) ∧
    s.hostExec (.rd 0x07 n) = .next (s.bindName n (s.dstlen.extractLsb' 32 32)) ∧
    (∀ k : Fin 8, s.hostExec (.rd (0x08 + k) n) = .next (s.bindName n s.v[k])) ∧
    (∀ k : Fin 32, s.status.rkv = true → s.hostExec (.rd (0x10 + k) n) = .next (s.bindName n s.rk[k])) ∧
    (∀ k : Fin 32, s.status.rkv = false →
      s.hostExec (.rd (0x10 + k) n) =
        .next ({ s with draws := s.draws + 1 }.bindName n (Config.readDraw s.draws))) ∧
    ∀ k : Fin 16, s.hostExec (.rd (0x30 + k) n) = .next (s.bindName n 0)

/-- R94: host reads while a command runs. Outputs are free draws, everything else is exact. That a draw is the value of
Config.readDraw at the draw counter, which then moves on, and its low byte for DST, is the model's choice (log
entry 3). -/
def Obligations.BusyReadsOfOutputsAreDraws : Prop :=
  ∀ s : State, s.status.busy = true →
    (∀ r : Reg, s.readReg r = match r with
      | .cmd => (s.cmd, s)
      | .status => (s.status.word, s)
      | .srclenLo => (s.srclenLo, s)
      | .srclenHi => (s.srclenHi, s)
      | .keylen => (s.keylen, s)
      | .ivlen => (s.ivlen, s)
      | .dstlenLo => (Config.readDraw s.draws, { s with draws := s.draws + 1 })
      | .dstlenHi => (Config.readDraw s.draws, { s with draws := s.draws + 1 })
      | .v _ => (Config.readDraw s.draws, { s with draws := s.draws + 1 })
      | .rk _ => (Config.readDraw s.draws, { s with draws := s.draws + 1 })
      | .reserved => (0, s)) ∧
    (∀ sp off, sp ≠ .dst → off < s.plat.cap sp → s.hostLoad sp off = ((s.readByte sp off).setWidth 32, s)) ∧
    ∀ off, off < s.plat.dstCap →
      s.hostLoad .dst off = (Config.readDraw s.draws &&& 0xFF, { s with draws := s.draws + 1 })

/-- R93: while a command runs, a host write to any register, CMD included, and to SRC, KEY and IV changes nothing. -/
def Obligations.BusyHostWritesIgnored : Prop :=
  ∀ s : State, s.status.busy = true →
    (∀ k x, k < 64 → s.hostExec (.wr k (.imm x)) = .next s) ∧
    ∀ sp off x, s.hostExec (.wb sp off (.imm x)) = .next s

/-- R31, R33, R35 to R37, R39, R41: what a write of each index but CMD does while the core is idle. That a write to
the read-only DSTLEN and RK registers is ignored is DEDUCED (log entry 10). -/
def Obligations.IdleRegisterWrites : Prop :=
  ∀ (s : State) (x : Word), s.status.busy = false →
    s.hostExec (.wr 0x02 (.imm x)) = .next { s with srclenLo := x } ∧
    s.hostExec (.wr 0x03 (.imm x)) = .next { s with srclenHi := x } ∧
    s.hostExec (.wr 0x04 (.imm x)) = .next { s with keylen := x } ∧
    s.hostExec (.wr 0x05 (.imm x)) = .next { s with ivlen := x } ∧
    (∀ k : Fin 8, s.hostExec (.wr (0x08 + k) (.imm x)) = .next { s with v := s.v.set k x }) ∧
    ∀ k, k = 0x01 ∨ k = 0x06 ∨ k = 0x07 ∨ (0x10 ≤ k ∧ k < 0x40) → s.hostExec (.wr k (.imm x)) = .next s

/-- R41, U8: an access outside the register map is refused by name, a read or a write. -/
def Obligations.AccessOutsideMapRefused : Prop :=
  ∀ (s : State) (k : Nat) (x : Word) (n : Name), 64 ≤ k →
    s.hostExec (.wr k (.imm x)) = .refused .outsideRegisterMap ∧
    s.hostExec (.rd k n) = .refused .outsideRegisterMap

/-- R84, R88, R89: a whole-word access at MMIO_BASE + 4*k is the access to register index k; any other access is
refused by name. -/
def Obligations.BusAccessIsWholeAlignedWord : Prop :=
  ∀ (s : State) (v : Val) (n : Name),
    (∀ k, k < 64 → s.hostExec (.busWr (s.plat.mmioBase + 4 * k) 4 v) = s.hostExec (.wr k v) ∧
      s.hostExec (.busRd (s.plat.mmioBase + 4 * k) 4 n) = s.hostExec (.rd k n)) ∧
    ∀ addr size, busWf s.plat addr size = false →
      (∃ r, s.hostExec (.busWr addr size v) = .refused r) ∧ ∃ r, s.hostExec (.busRd addr size n) = .refused r

/-- R92: a host read changes nothing in the core, and a repeated write of one value to a register other than CMD, or
to a buffer byte, leaves the same state as the first. -/
def Obligations.ReadsPureAndWritesIdempotent : Prop :=
  (∀ (s : State) (r : Reg), SameCore s (s.readReg r).2) ∧
  (∀ (s : State) (sp : Space) (off : Nat), SameCore s (s.hostLoad sp off).2) ∧
  (∀ (s : State) (r : Reg) (x : Word), r ≠ .cmd → (s.writeReg r x).writeReg r x = s.writeReg r x) ∧
  ∀ (s : State) (sp : Space) (off : Nat) (x : Byte),
    (s.hostStore sp off x).hostStore sp off x = s.hostStore sp off x

/-! ## The buffers -/

/-- R90: host buffer accesses beyond the capacity of SRC, KEY and IV; DST beyond DSTLEN but within DST_CAP reads as
stored. That an unspecified read is the low byte of Config.readDraw at the draw counter, which then moves on, is the
model's choice (log entry 3). DST at DST_CAP or beyond is not in this statement (log entry 11). -/
def Obligations.BufferAccessBeyondCapacity : Prop :=
  ∀ s : State,
    (∀ sp off x, sp ≠ .dst → s.plat.cap sp ≤ off → s.hostStore sp off x = s) ∧
    (∀ sp off, sp ≠ .dst → s.plat.cap sp ≤ off →
      s.hostLoad sp off = (Config.readDraw s.draws &&& 0xFF, { s with draws := s.draws + 1 })) ∧
    ∀ off, s.status.busy = false → s.dstlen.toNat ≤ off → off < s.plat.dstCap →
      s.hostLoad .dst off = ((s.readByte .dst off).setWidth 32, s)

/-- R85, R86, R95: while idle, WB of an operand to a byte of SRC, KEY or IV within the capacity stores its low 8 bits
there, and RB of that byte then names the byte; no other byte of any buffer changes, and WB to DST changes nothing. That
the low 8 bits are taken, that RB gives its name the byte as a word, and that a name stands for its newest value are the
model's choices (log entry 15). -/
def Obligations.BufferStoreThenLoad : Prop :=
  ∀ (s : State) (sp : Space) (off : Nat) (x : Word) (m n : Name), s.status.busy = false → off < s.plat.cap sp →
    (sp ≠ .dst → ∃ t, s.hostExec (.wb sp off (.imm x)) = .next t ∧ t = s.storeByte sp off (x.extractLsb' 0 8) ∧
      t.hostExec (.rb sp off n) = .next (t.bindName n (x &&& 0xFF)) ∧
      ∀ sq a, (sq ≠ sp ∨ a ≠ off) → t.readByte sq a = s.readByte sq a) ∧
    (sp = .dst → s.hostExec (.wb sp off (.imm x)) = .next s) ∧
    s.hostExec (.rb sp off n) = .next (s.bindName n ((s.readByte sp off).setWidth 32)) ∧
    (lookup m s.host.env = some x → s.hostExec (.wb sp off (.named m)) = s.hostExec (.wb sp off (.imm x)))

/-! ## Reset and acceptance -/

/-- R54: the values the spec gives the state right after reset; every buffer byte is its free reset byte, and a read
of RKi is a free draw (the model's names for both, log entries 2 and 3). -/
def Obligations.ResetStateValues : Prop :=
  State.reset.cmd = 0 ∧ State.reset.status.word = 0 ∧ State.reset.srclen = 0 ∧ State.reset.keylen = 0 ∧
  State.reset.ivlen = 0 ∧ State.reset.dstlen = 0 ∧
  State.reset.v =
    #v[0x7380166F, 0x4914B2B9, 0x172442D7, 0xDA8A0600, 0xA96F30BC, 0x163138AA, 0xE38DEE4D, 0xB0FB0E4E] ∧
  (∀ sp off, State.reset.readByte sp off = Config.resetByte 0 sp off) ∧
  (∀ i : Fin 32, (State.reset.readReg (.rk i)).1 = Config.readDraw 0) ∧
  (State.reset.readReg .reserved).1 = 0

/-- R320, R321: RESET at any time, a running command included, gives the reset values in one step, with fresh free
buffer bytes; nothing of the aborted command is committed. The names of the free values, and that the host's record
stays, are the model's choices (log entries 2, 3 and 18). -/
def Obligations.ResetFromAnyState : Prop :=
  ∀ s : State, ∃ t, s.hostExec .reset = .next t ∧
    t.cmd = 0 ∧ t.status.word = 0 ∧ t.srclen = 0 ∧ t.keylen = 0 ∧ t.ivlen = 0 ∧ t.dstlen = 0 ∧
    t.v = #v[0x7380166F, 0x4914B2B9, 0x172442D7, 0xDA8A0600, 0xA96F30BC, 0x163138AA, 0xE38DEE4D, 0xB0FB0E4E] ∧
    (∀ sp off, t.readByte sp off = Config.resetByte (s.epoch + 1) sp off) ∧
    (∀ i : Fin 32, (t.readReg (.rk i)).1 = Config.readDraw t.draws) ∧ t.plat = s.plat ∧ t.host = s.host

/-- R285: acceptance of a CMD write, in one step: the word, STATUS and the snapshot, and nothing else. -/
def Obligations.CmdWriteIsAccepted : Prop :=
  ∀ (s : State) (w : Word), s.status.busy = false →
    s.hostExec (.wr 0x00 (.imm w)) = .next
      { s with
        cmd := w
        status := { busy := true, done := false, err := false, rkv := s.status.rkv, errcode := 0 }
        snap := { srclen := s.srclenHi ++ s.srclenLo, keylen := s.keylen, ivlen := s.ivlen, v := s.v, rk := s.rk,
                  rkv := s.status.rkv } }

/-! ## Completion -/

/-- R283, R282: the error a command reports is the first in its row whose condition holds, and it succeeds
(ERRCODE 0) exactly when none does; an illegal word reports IllegalCommand (4) before any other check. -/
def Obligations.ErrorCodeFollowsCheckOrder : Prop :=
  (∀ (s : State) (why : Illegal), decode s.cmd = .illegal why →
    ∃ t, s.engineStep = .next t ∧ t.status.errcode = 4 ∧ t.status.err = true) ∧
  ∀ (i : Instr) (s : State), ∃ t, exec i s = .next t ∧
    t.status.busy = false ∧ t.status.done = true ∧ t.status.err = decide (t.status.errcode ≠ 0) ∧
    t.status.errcode = match i with
      | .sm3Hash => if s.plat.srcCap < s.snap.srclen.toNat then 7 else 0
      | .sm3Init => 0
      | .sm3Compress =>
        if s.plat.srcCap < s.snap.srclen.toNat then 7 else if s.snap.srclen.toNat ≠ 64 then 5 else 0
      | .sm4Keyexp => if s.snap.keylen ≠ 16 then 1 else 0
      | .sm4EncBlock =>
        if s.plat.srcCap < s.snap.srclen.toNat then 7 else if s.snap.srclen.toNat ≠ 16 then 5
        else if s.snap.rkv = false then 6 else 0
      | .sm4DecBlock =>
        if s.plat.srcCap < s.snap.srclen.toNat then 7 else if s.snap.srclen.toNat ≠ 16 then 5
        else if s.snap.rkv = false then 6 else 0
      | .ecbEnc => if s.plat.srcCap < s.snap.srclen.toNat then 7 else if s.snap.keylen ≠ 16 then 1 else 0
      | .ecbDec =>
        if s.plat.srcCap < s.snap.srclen.toNat then 7 else if s.snap.keylen ≠ 16 then 1
        else if s.snap.srclen.toNat = 0 ∨ s.snap.srclen.toNat % 16 ≠ 0 then 3 else 0
      | .cbcEnc =>
        if s.plat.srcCap < s.snap.srclen.toNat then 7 else if s.snap.keylen ≠ 16 then 1
        else if s.snap.ivlen ≠ 16 then 2 else 0
      | .cbcDec =>
        if s.plat.srcCap < s.snap.srclen.toNat then 7 else if s.snap.keylen ≠ 16 then 1
        else if s.snap.ivlen ≠ 16 then 2
        else if s.snap.srclen.toNat = 0 ∨ s.snap.srclen.toNat % 16 ≠ 0 then 3 else 0
      | .pkcs7Pad => if s.plat.srcCap < s.snap.srclen.toNat then 7 else 0
      | .pkcs7Unpad => if s.plat.srcCap < s.snap.srclen.toNat then 7 else 0

/-- R286: a command that ends in error sets DSTLEN = 0 and STATUS (ERR, DONE, the code; RKV kept), and leaves every
other piece of state as it was, every byte of every buffer included. That the hidden datapath registers stay too is the
model's choice (log entry 4), which R286 does not list and R54 leaves open. -/
def Obligations.ErrorOutcomeChangesOnlyStatusAndDstlen : Prop :=
  ∀ (i : Instr) (s t : State), exec i s = .next t → t.status.err = true →
    t = { s with
      dstlenLo := 0
      dstlenHi := 0
      status := { busy := false, done := true, err := true, rkv := s.status.rkv, errcode := t.status.errcode } } ∧
    t.status.errcode ≠ 0 ∧ ∀ sp a, t.readByte sp a = s.readByte sp a

/-- R53, R287: what a successful command writes and what it never writes, by the table of R53. -/
def Obligations.SuccessWritesOnlyTheTable : Prop :=
  ∀ (i : Instr) (s t : State), s.plat.wf = true → exec i s = .next t → t.status.err = false →
    t.status.busy = false ∧ t.status.done = true ∧ t.status.errcode = 0 ∧
    (writesV i = false → t.v = s.v) ∧ (writesRk i = false → t.rk = s.rk ∧ t.status.rkv = s.status.rkv) ∧
    (writesRk i = true → t.status.rkv = true) ∧ KeepsInputs s t ∧
    ∀ a, t.dstlen.toNat ≤ a → t.readByte .dst a = s.readByte .dst a

/-! ## The SM3 commands -/

/-- R160: SM3_HASH. Its error clauses say the hidden datapath registers stay too, the model's
choice (log entry 4). -/
def Obligations.Sm3HashGivesDigest : Prop :=
  decode 0x00000001 = .command .sm3Hash ∧
  ∀ s : State,
    (s.srcLen ≤ s.plat.srcCap → ∃ t, exec .sm3Hash s = .next t ∧ Succeeded s t (sm3 s.srcBytes) ∧
      t.dstlen = 32 ∧ (∀ k : Fin 8, t.v[k] = be32 (sm3 s.srcBytes) (4 * k)) ∧ t.rk = s.rk ∧
      t.status.rkv = s.status.rkv) ∧
    (s.plat.srcCap < s.srcLen → exec .sm3Hash s = .next (s.raiseError .sourceLengthOutOfRange))

/-- R161, with R141's words: SM3_INIT always succeeds and writes no DST byte. -/
def Obligations.Sm3InitLoadsIv : Prop :=
  decode 0x00000002 = .command .sm3Init ∧
  ∀ s : State, ∃ t, exec .sm3Init s = .next t ∧ Succeeded s t [] ∧
    t.v = #v[0x7380166F, 0x4914B2B9, 0x172442D7, 0xDA8A0600, 0xA96F30BC, 0x163138AA, 0xE38DEE4D, 0xB0FB0E4E] ∧
    t.dstlen = 0 ∧ t.rk = s.rk ∧ t.status.rkv = s.status.rkv

/-- R162: SM3_COMPRESS. Its error clauses say the hidden datapath registers stay too, the model's
choice (log entry 4). -/
def Obligations.Sm3CompressAppliesCf : Prop :=
  decode 0x00000003 = .command .sm3Compress ∧
  ∀ s : State,
    (s.srcLen = 64 → 64 ≤ s.plat.srcCap → ∃ t, exec .sm3Compress s = .next t ∧
      t.v = sm3CF s.snap.v (s.memRead .src 0 64) ∧ Succeeded s t (t.v.toList.flatMap bytes32) ∧ t.dstlen = 32 ∧
      t.rk = s.rk ∧ t.status.rkv = s.status.rkv) ∧
    (s.plat.srcCap < s.srcLen → exec .sm3Compress s = .next (s.raiseError .sourceLengthOutOfRange)) ∧
    (s.srcLen ≤ s.plat.srcCap → s.srcLen ≠ 64 → exec .sm3Compress s = .next (s.raiseError .invalidBlockLength))

/-! ## The SM4 commands -/

/-- R200: SM4_KEYEXP; SRCLEN is not read. Its error clauses say the hidden datapath registers stay too, the model's
choice (log entry 4). -/
def Obligations.Sm4KeyexpLoadsSchedule : Prop :=
  decode 0x00000010 = .command .sm4Keyexp ∧
  ∀ s : State,
    (s.snap.keylen = 16 → ∃ t, exec .sm4Keyexp s = .next t ∧ Succeeded s t [] ∧ t.dstlen = 0 ∧
      t.rk = sm4Keyexp (s.memRead .key 0 16) ∧ t.status.rkv = true ∧ t.v = s.v) ∧
    (s.snap.keylen ≠ 16 → exec .sm4Keyexp s = .next (s.raiseError .invalidKeyLength))

/-- R201: SM4_ENC_BLOCK. Its error clauses say the hidden datapath registers stay too, the model's
choice (log entry 4). -/
def Obligations.Sm4EncBlockEncrypts : Prop :=
  decode 0x00000011 = .command .sm4EncBlock ∧
  ∀ s : State,
    (s.srcLen = 16 → 16 ≤ s.plat.srcCap → s.snap.rkv = true → ∃ t, exec .sm4EncBlock s = .next t ∧
      Succeeded s t (sm4Enc s.snap.rk (s.memRead .src 0 16)) ∧ t.dstlen = 16 ∧ t.rk = s.rk ∧ t.v = s.v ∧
      t.status.rkv = s.status.rkv) ∧
    (s.plat.srcCap < s.srcLen → exec .sm4EncBlock s = .next (s.raiseError .sourceLengthOutOfRange)) ∧
    (s.srcLen ≤ s.plat.srcCap → s.srcLen ≠ 16 → exec .sm4EncBlock s = .next (s.raiseError .invalidBlockLength)) ∧
    (s.srcLen = 16 → 16 ≤ s.plat.srcCap → s.snap.rkv = false →
      exec .sm4EncBlock s = .next (s.raiseError .roundKeysNotLoaded))

/-- R202: SM4_DEC_BLOCK. Its error clauses say the hidden datapath registers stay too, the model's
choice (log entry 4). -/
def Obligations.Sm4DecBlockDecrypts : Prop :=
  decode 0x00000012 = .command .sm4DecBlock ∧
  ∀ s : State,
    (s.srcLen = 16 → 16 ≤ s.plat.srcCap → s.snap.rkv = true → ∃ t, exec .sm4DecBlock s = .next t ∧
      Succeeded s t (sm4Dec s.snap.rk (s.memRead .src 0 16)) ∧ t.dstlen = 16 ∧ t.rk = s.rk ∧ t.v = s.v ∧
      t.status.rkv = s.status.rkv) ∧
    (s.plat.srcCap < s.srcLen → exec .sm4DecBlock s = .next (s.raiseError .sourceLengthOutOfRange)) ∧
    (s.srcLen ≤ s.plat.srcCap → s.srcLen ≠ 16 → exec .sm4DecBlock s = .next (s.raiseError .invalidBlockLength)) ∧
    (s.srcLen = 16 → 16 ≤ s.plat.srcCap → s.snap.rkv = false →
      exec .sm4DecBlock s = .next (s.raiseError .roundKeysNotLoaded))

/-! ## The mode commands -/

/-- R256: ECB_ENC. Its error clauses say the hidden datapath registers stay too, the model's
choice (log entry 4). -/
def Obligations.EcbEncEncryptsSource : Prop :=
  decode 0x00000020 = .command .ecbEnc ∧
  ∀ s : State,
    (s.srcLen ≤ s.plat.srcCap → s.snap.keylen = 16 → ∃ t, exec .ecbEnc s = .next t ∧
      Succeeded s t (ecbEnc (sm4Keyexp (s.memRead .key 0 16)) (s.memRead .src 0 s.srcLen)) ∧
      t.dstlen = BitVec.ofNat 64 (16 * (s.srcLen / 16 + 1)) ∧ t.rk = sm4Keyexp (s.memRead .key 0 16) ∧
      t.status.rkv = true ∧ t.v = s.v) ∧
    (s.plat.srcCap < s.srcLen → exec .ecbEnc s = .next (s.raiseError .sourceLengthOutOfRange)) ∧
    (s.srcLen ≤ s.plat.srcCap → s.snap.keylen ≠ 16 → exec .ecbEnc s = .next (s.raiseError .invalidKeyLength))

/-- R257: ECB_DEC. Its error clauses say the hidden datapath registers stay too, the model's
choice (log entry 4). -/
def Obligations.EcbDecDecryptsSource : Prop :=
  decode 0x00000021 = .command .ecbDec ∧
  ∀ s : State,
    (s.srcLen ≤ s.plat.srcCap → s.snap.keylen = 16 → 0 < s.srcLen → s.srcLen % 16 = 0 →
      ∃ t, exec .ecbDec s = .next t ∧
      Succeeded s t (ecbDec (sm4Keyexp (s.memRead .key 0 16)) (s.memRead .src 0 s.srcLen)) ∧
      s.srcLen - 16 ≤ t.dstlen.toNat ∧ t.dstlen.toNat ≤ s.srcLen ∧ t.rk = sm4Keyexp (s.memRead .key 0 16) ∧
      t.status.rkv = true ∧ t.v = s.v) ∧
    (s.plat.srcCap < s.srcLen → exec .ecbDec s = .next (s.raiseError .sourceLengthOutOfRange)) ∧
    (s.srcLen ≤ s.plat.srcCap → s.snap.keylen ≠ 16 → exec .ecbDec s = .next (s.raiseError .invalidKeyLength)) ∧
    (s.srcLen ≤ s.plat.srcCap → s.snap.keylen = 16 → (s.srcLen = 0 ∨ s.srcLen % 16 ≠ 0) →
      exec .ecbDec s = .next (s.raiseError .invalidCiphertextLength))

/-- R258: CBC_ENC. Its error clauses say the hidden datapath registers stay too, the model's
choice (log entry 4). -/
def Obligations.CbcEncEncryptsSource : Prop :=
  decode 0x00000022 = .command .cbcEnc ∧
  ∀ s : State,
    (s.srcLen ≤ s.plat.srcCap → s.snap.keylen = 16 → s.snap.ivlen = 16 → ∃ t, exec .cbcEnc s = .next t ∧
      Succeeded s t
        (cbcEnc (sm4Keyexp (s.memRead .key 0 16)) (s.memRead .iv 0 16) (s.memRead .src 0 s.srcLen)) ∧
      t.dstlen = BitVec.ofNat 64 (16 * (s.srcLen / 16 + 1)) ∧ t.rk = sm4Keyexp (s.memRead .key 0 16) ∧
      t.status.rkv = true ∧ t.v = s.v) ∧
    (s.plat.srcCap < s.srcLen → exec .cbcEnc s = .next (s.raiseError .sourceLengthOutOfRange)) ∧
    (s.srcLen ≤ s.plat.srcCap → s.snap.keylen ≠ 16 → exec .cbcEnc s = .next (s.raiseError .invalidKeyLength)) ∧
    (s.srcLen ≤ s.plat.srcCap → s.snap.keylen = 16 → s.snap.ivlen ≠ 16 →
      exec .cbcEnc s = .next (s.raiseError .invalidIvLength))

/-- R259: CBC_DEC. Its error clauses say the hidden datapath registers stay too, the model's
choice (log entry 4). -/
def Obligations.CbcDecDecryptsSource : Prop :=
  decode 0x00000023 = .command .cbcDec ∧
  ∀ s : State,
    (s.srcLen ≤ s.plat.srcCap → s.snap.keylen = 16 → s.snap.ivlen = 16 → 0 < s.srcLen → s.srcLen % 16 = 0 →
      ∃ t, exec .cbcDec s = .next t ∧
      Succeeded s t
        (cbcDec (sm4Keyexp (s.memRead .key 0 16)) (s.memRead .iv 0 16) (s.memRead .src 0 s.srcLen)) ∧
      s.srcLen - 16 ≤ t.dstlen.toNat ∧ t.dstlen.toNat ≤ s.srcLen ∧ t.rk = sm4Keyexp (s.memRead .key 0 16) ∧
      t.status.rkv = true ∧ t.v = s.v) ∧
    (s.plat.srcCap < s.srcLen → exec .cbcDec s = .next (s.raiseError .sourceLengthOutOfRange)) ∧
    (s.srcLen ≤ s.plat.srcCap → s.snap.keylen ≠ 16 → exec .cbcDec s = .next (s.raiseError .invalidKeyLength)) ∧
    (s.srcLen ≤ s.plat.srcCap → s.snap.keylen = 16 → s.snap.ivlen ≠ 16 →
      exec .cbcDec s = .next (s.raiseError .invalidIvLength)) ∧
    (s.srcLen ≤ s.plat.srcCap → s.snap.keylen = 16 → s.snap.ivlen = 16 → (s.srcLen = 0 ∨ s.srcLen % 16 ≠ 0) →
      exec .cbcDec s = .next (s.raiseError .invalidCiphertextLength))

/-! ## The padding commands -/

/-- R235: PKCS7_PAD. Its error clauses say the hidden datapath registers stay too, the model's
choice (log entry 4). -/
def Obligations.Pkcs7PadPadsSource : Prop :=
  decode 0x00000030 = .command .pkcs7Pad ∧
  ∀ s : State,
    (s.srcLen ≤ s.plat.srcCap → ∃ t, exec .pkcs7Pad s = .next t ∧
      Succeeded s t (s.srcBytes ++
        List.replicate (16 - s.srcLen % 16) (BitVec.ofNat 8 (16 - s.srcLen % 16))) ∧
      t.dstlen = BitVec.ofNat 64 (16 * (s.srcLen / 16 + 1)) ∧ t.v = s.v ∧ t.rk = s.rk ∧
      t.status.rkv = s.status.rkv) ∧
    (s.plat.srcCap < s.srcLen → exec .pkcs7Pad s = .next (s.raiseError .sourceLengthOutOfRange))

/-- R236, R234, R237: PKCS7_UNPAD is lax and never fails on the padding. Its error clause
says the hidden datapath registers stay too, the model's choice (log entry 4). -/
def Obligations.Pkcs7UnpadStripsByLastByte : Prop :=
  decode 0x00000031 = .command .pkcs7Unpad ∧
  ∀ s : State,
    (s.srcLen ≤ s.plat.srcCap → ∃ t, exec .pkcs7Unpad s = .next t ∧
      Succeeded s t
        (if 1 ≤ (s.readByte .src (s.srcLen - 1)).toNat ∧ (s.readByte .src (s.srcLen - 1)).toNat ≤ 16 ∧
            (s.readByte .src (s.srcLen - 1)).toNat ≤ s.srcLen
          then s.memRead .src 0 (s.srcLen - (s.readByte .src (s.srcLen - 1)).toNat)
          else s.memRead .src 0 s.srcLen) ∧
      s.srcLen - 16 ≤ t.dstlen.toNat ∧ t.dstlen.toNat ≤ s.srcLen ∧ t.v = s.v ∧ t.rk = s.rk ∧
      t.status.rkv = s.status.rkv) ∧
    (s.plat.srcCap < s.srcLen → exec .pkcs7Unpad s = .next (s.raiseError .sourceLengthOutOfRange))

/-! ## Frames -/

/-- Frame of SM3_HASH and SM3_COMPRESS (R53): the registers and buffers they leave alone; they store at DST[0..32). -/
def Obligations.Sm3DigestFrame : Prop :=
  ∀ (i : Instr) (s t : State), (i = .sm3Hash ∨ i = .sm3Compress) → exec i s = .next t →
    KeepsInputs s t ∧ t.rk = s.rk ∧ t.status.rkv = s.status.rkv ∧
    ∀ a, 32 ≤ a → t.readByte .dst a = s.readByte .dst a

/-- Frame of SM3_INIT and SM4_KEYEXP (R53): no byte of any buffer changes. -/
def Obligations.NoStoreFrame : Prop :=
  (∀ s t : State, exec .sm3Init s = .next t →
    KeepsInputs s t ∧ t.rk = s.rk ∧ t.status.rkv = s.status.rkv ∧ ∀ sp a, t.readByte sp a = s.readByte sp a) ∧
  ∀ s t : State, exec .sm4Keyexp s = .next t →
    KeepsInputs s t ∧ t.v = s.v ∧ ∀ sp a, t.readByte sp a = s.readByte sp a

/-- Frame of SM4_ENC_BLOCK and SM4_DEC_BLOCK (R53): they store at DST[0..16). -/
def Obligations.Sm4BlockFrame : Prop :=
  ∀ (i : Instr) (s t : State), (i = .sm4EncBlock ∨ i = .sm4DecBlock) → exec i s = .next t →
    KeepsInputs s t ∧ t.v = s.v ∧ t.rk = s.rk ∧ t.status.rkv = s.status.rkv ∧
    ∀ a, 16 ≤ a → t.readByte .dst a = s.readByte .dst a

/-- Frame of the four mode commands (R53): they store the mode function's string from DST offset 0. -/
def Obligations.ModeFrame : Prop :=
  ∀ (i : Instr) (s t : State) (out : List Byte),
    ((i = .ecbEnc ∧ out = ecbEnc (sm4Keyexp s.keyBytes) s.srcBytes) ∨
      (i = .ecbDec ∧ out = ecbDec (sm4Keyexp s.keyBytes) s.srcBytes) ∨
      (i = .cbcEnc ∧ out = cbcEnc (sm4Keyexp s.keyBytes) s.ivBytes s.srcBytes) ∨
      (i = .cbcDec ∧ out = cbcDec (sm4Keyexp s.keyBytes) s.ivBytes s.srcBytes)) →
    exec i s = .next t →
    KeepsInputs s t ∧ t.v = s.v ∧ ∀ a, out.length ≤ a → t.readByte .dst a = s.readByte .dst a

/-- Frame of PKCS7_PAD and PKCS7_UNPAD (R53): they store the padded or unpadded string from DST offset 0. -/
def Obligations.Pkcs7Frame : Prop :=
  ∀ (i : Instr) (s t : State) (out : List Byte),
    ((i = .pkcs7Pad ∧ out = pkcs7Pad s.srcBytes) ∨ (i = .pkcs7Unpad ∧ out = pkcs7Unpad s.srcBytes)) →
    exec i s = .next t →
    KeepsInputs s t ∧ t.v = s.v ∧ t.rk = s.rk ∧ t.status.rkv = s.status.rkv ∧
    ∀ a, out.length ≤ a → t.readByte .dst a = s.readByte .dst a

/-! ## The algorithms -/

/-- R142, R152: the padded message is the message, 0x80, zeros to 56 mod 64, and the bit length; its block count. -/
def Obligations.Sm3PadShape : Prop :=
  ∀ M : List Byte, ∃ z, z < 64 ∧ (M.length + 1 + z) % 64 = 56 ∧
    sm3Pad M = M ++ [0x80] ++ List.replicate z 0 ++ bytes64 (BitVec.ofNat 64 (8 * M.length)) ∧
    (sm3Pad M).length % 64 = 0 ∧ (sm3Pad M).length / 64 = (M.length + 8) / 64 + 1

/-- R199: encryption is the block transform under rk, decryption the same transform under rk'[i] = rk[31 - i], and
each inverts the other. -/
def Obligations.Sm4BlockInverse : Prop :=
  ∀ (rk : Vector Word 32) (P : List Byte), P.length = 16 →
    sm4Enc rk P = sm4Block rk.toList P ∧
    sm4Dec rk P = sm4Block (Vector.ofFn fun i : Fin 32 => rk[31 - i.val]).toList P ∧
    sm4Dec rk (sm4Enc rk P) = P ∧ sm4Enc rk (sm4Dec rk P) = P

/-- R232: the four laws of pad and unpad. -/
def Obligations.Pkcs7Laws : Prop :=
  (∀ S : List Byte, (pkcs7Pad S).length = 16 * (S.length / 16 + 1)) ∧
  (∀ S : List Byte, pkcs7Unpad (pkcs7Pad S) = S) ∧
  (∀ S : List Byte, S.length - 16 ≤ (pkcs7Unpad S).length ∧ ∃ U, pkcs7Unpad S ++ U = S) ∧
  (pkcs7Unpad [0xAA, 0x01] = [0xAA] ∧ pkcs7Unpad [0xAA, 0x02, 0x02] = [0xAA])

/-- R260: the mode functions invert each other for every plaintext, key and IV, and the encrypt output is an input
the decrypt command accepts. -/
def Obligations.ModeFunctionsRoundTrip : Prop :=
  ∀ (key iv P : List Byte), key.length = 16 → iv.length = 16 →
    ecbDec (sm4Keyexp key) (ecbEnc (sm4Keyexp key) P) = P ∧
    cbcDec (sm4Keyexp key) iv (cbcEnc (sm4Keyexp key) iv P) = P ∧
    0 < (ecbEnc (sm4Keyexp key) P).length ∧ (ecbEnc (sm4Keyexp key) P).length % 16 = 0 ∧
    (ecbEnc (sm4Keyexp key) P).length ≤ P.length + 16 ∧
    (cbcEnc (sm4Keyexp key) iv P).length = (ecbEnc (sm4Keyexp key) P).length

/-- R259, corner cases: a wrong IV corrupts only the first 16 plaintext bytes, and a corrupted ciphertext block, the last
one too, only its own plaintext block and the next. -/
def Obligations.CbcErrorPropagation : Prop :=
  ∀ (rk : Vector Word 32) (iv iv' : List Byte) (Cs Ds : List (List Byte)) (C C' : List Byte),
    iv.length = 16 → iv'.length = 16 → (∀ B ∈ Cs, B.length = 16) → C.length = 16 → C'.length = 16 →
    (cbcDecLoop rk iv (C :: Cs)).drop 16 = (cbcDecLoop rk iv' (C :: Cs)).drop 16 ∧
    (cbcDecLoop rk iv (Cs ++ C :: Ds)).take (16 * Cs.length) =
      (cbcDecLoop rk iv (Cs ++ C' :: Ds)).take (16 * Cs.length) ∧
    (cbcDecLoop rk iv (Cs ++ C :: Ds)).drop (16 * Cs.length + 32) =
      (cbcDecLoop rk iv (Cs ++ C' :: Ds)).drop (16 * Cs.length + 32)

/-! ## Runs of commands -/

/-- R162, corner case: SM3_INIT and one SM3_COMPRESS per block of the padded message leave V, DST[0..32) and DSTLEN
as SM3_HASH of the message leaves them. -/
def Obligations.StreamingCompressEqualsHash : Prop :=
  ∀ (s : State) (M : List Byte), s.plat.wf = true → s.status.busy = false → M.length ≤ s.plat.srcCap →
    ∃ t u h, s.runCommand .sm3Init = .next t ∧ State.stream (blocks64 (sm3Pad M)) t = some u ∧
      (s.withSource M).runCommand .sm3Hash = .next h ∧ h.status.err = false ∧
      u.v = h.v ∧ u.memRead .dst 0 32 = h.memRead .dst 0 32 ∧ u.dstlen = h.dstlen

/-- R202, corner case: SM4_DEC_BLOCK of SM4_ENC_BLOCK's result under the same round keys gives the block back. -/
def Obligations.BlockCommandsInvert : Prop :=
  ∀ (s : State) (P : List Byte), s.plat.wf = true → s.status.busy = false → s.status.rkv = true → P.length = 16 →
    ∃ t u, (s.withSource P).runCommand .sm4EncBlock = .next t ∧
      (t.withSource t.result).runCommand .sm4DecBlock = .next u ∧ u.status.err = false ∧ u.result = P

/-- R260 at the commands: ECB_ENC, then ECB_DEC of its result copied back to SRC, gives the plaintext. -/
def Obligations.EcbCommandsRoundTrip : Prop :=
  ∀ (s : State) (P : List Byte), s.plat.wf = true → s.status.busy = false → s.keylen = 16 →
    P.length + 16 ≤ s.plat.srcCap →
    ∃ t u, (s.withSource P).runCommand .ecbEnc = .next t ∧ t.status.err = false ∧
      (t.withSource t.result).runCommand .ecbDec = .next u ∧ u.status.err = false ∧ u.result = P

/-- R260 at the commands: CBC_ENC, then CBC_DEC of its result copied back to SRC, gives the plaintext. -/
def Obligations.CbcCommandsRoundTrip : Prop :=
  ∀ (s : State) (P : List Byte), s.plat.wf = true → s.status.busy = false → s.keylen = 16 → s.ivlen = 16 →
    P.length + 16 ≤ s.plat.srcCap →
    ∃ t u, (s.withSource P).runCommand .cbcEnc = .next t ∧ t.status.err = false ∧
      (t.withSource t.result).runCommand .cbcDec = .next u ∧ u.status.err = false ∧ u.result = P

/-- R289: a failed command can be retried. Whatever the host then writes to SRC, SRCLEN, KEYLEN and IVLEN, any command
does exactly what it would have done without the failed attempt. R289 says so of architectural state. That the hidden
datapath registers are as before too, which the equality of whole states includes, is the model's choice (log entry 4).
Host writes to KEY, IV and V in between, and a failed illegal word, are not in this statement. -/
def Obligations.FailedCommandLeavesNoTrace : Prop :=
  ∀ (i j : Instr) (s t : State) (S : List Byte) (kl il : Word), s.status.busy = false →
    s.runCommand i = .next t → t.status.err = true →
    State.runCommand j { t.withSource S with keylen := kl, ivlen := il } =
      State.runCommand j { s.withSource S with keylen := kl, ivlen := il }

/-! ## What a result does not depend on -/

/-- R250: a mode command does not use what RK0..RK31 or RKV held before. -/
def Obligations.ModeCommandsIgnoreRoundKeyFile : Prop :=
  ∀ (i : Instr) (s t : State) (rk : Vector Word 32) (rkv : Bool),
    (i = .ecbEnc ∨ i = .ecbDec ∨ i = .cbcEnc ∨ i = .cbcDec) → exec i s = .next t →
    ∃ u, exec i { s with rk := rk, snap := { s.snap with rk := rk, rkv := rkv } } = .next u ∧
      u.status = t.status ∧ u.dstlen = t.dstlen ∧ u.dst = t.dst ∧ (t.status.err = false → u.rk = t.rk)

/-- R37, R256, R257: ECB commands read neither IVLEN nor the IV buffer. -/
def Obligations.EcbCommandsIgnoreIv : Prop :=
  ∀ (i : Instr) (s t : State) (m : Memory) (il : Word), (i = .ecbEnc ∨ i = .ecbDec) → exec i s = .next t →
    exec i { s with iv := m, ivlen := il, snap := { s.snap with ivlen := il } } =
      .next { t with iv := m, ivlen := il, snap := { t.snap with ivlen := il } }

/-- R54, U3: no command's outcome depends on what the hidden datapath registers held before it. That an error leaves
them alone is the model's choice (log entry 4). -/
def Obligations.OutcomeIndependentOfDatapath : Prop :=
  ∀ (i : Instr) (s t : State) (d : Datapath), exec i s = .next t →
    exec i { s with dp := d } = .next t ∨ exec i { s with dp := d } = .next { t with dp := d }

/-! ## Whole-machine rules -/

/-- The invariant holds at reset. -/
def Obligations.ResetMeetsInvariant : Prop := State.Inv State.reset

/-- Every step keeps the invariant: the platform's ranges, the buffers' canonical form and capacities (R86, R91), the
STATUS values of R34, the snapshot of a running command equal to the operand registers (R50, R93), and DSTLEN within
DST_CAP and 0 after an error (R286). -/
def Obligations.StepKeepsInvariant : Prop :=
  ∀ s t : State, s.Inv → step s = .next t → t.Inv

/-- R34: RKV goes from 0 to 1 only when a command that writes RK completes successfully, and from 1 to 0 only at
RESET. -/
def Obligations.RkvChangesOnlyByRule : Prop :=
  ∀ s t : State, step s = .next t →
    (s.status.rkv = false → t.status.rkv = true →
      ∃ i, s.turn = .engine ∧ decode s.cmd = .command i ∧ writesRk i = true ∧ t.status.done = true ∧
        t.status.err = false) ∧
    (s.status.rkv = true → t.status.rkv = false → s.turn = .host ∧ s.hostStmt = some .reset)

/-- R31, R85, R96: DST, DSTLEN and RK change only at a completion of the engine, or at RESET. -/
def Obligations.OutputsChangeOnlyAtCompletion : Prop :=
  ∀ s t : State, step s = .next t → (t.dst ≠ s.dst ∨ t.dstlen ≠ s.dstlen ∨ t.rk ≠ s.rk) →
    (s.turn = .engine ∧ t.status.busy = false ∧ t.status.done = true) ∨
    (s.turn = .host ∧ s.hostStmt = some .reset)

/-- R87: the engine never writes SRC, KEY or IV, nor any host-writable register but V. -/
def Obligations.EngineNeverWritesOperands : Prop :=
  ∀ s t : State, s.turn = .engine → step s = .next t →
    t.src = s.src ∧ t.key = s.key ∧ t.iv = s.iv ∧ t.srclen = s.srclen ∧ t.keylen = s.keylen ∧ t.ivlen = s.ivlen ∧
    t.cmd = s.cmd

/-- R288, R332: a running command completes. However the host's moves are interleaved, after at most as many host moves
as the interleaving holds entries (the model's form of R332's fairness, log entry 5) the command is still running in a
state u whose step ends it: the engine moves and the command completes (BUSY 0, DONE 1), or the host's statement is RESET,
which aborts it (R321), or it is one the core has no behaviour for, refused by a name of its own and never as not
modelled (R336). -/
def Obligations.RunningCommandCompletes : Prop :=
  ∀ s : State, s.status.busy = true →
    ∃ k u, k ≤ s.sched.length ∧ Sys2Proof.core.run k s = .next u ∧ u.status.busy = true ∧ u.cmd = s.cmd ∧
      ((u.turn = .engine ∧ ∃ t, step u = .next t ∧ t.status.busy = false ∧ t.status.done = true) ∨
        (u.turn = .host ∧ u.hostStmt = some .reset ∧ ∃ t, step u = .next t ∧ t.status = Status.reset) ∨
        (u.turn = .host ∧ ∃ st r, u.hostStmt = some st ∧ step u = .refused r ∧ ∀ mn, r ≠ .notModelled mn))
end

