-- ==== Sys2Proof/Laws/Bytes.lean ====
section
/-! SUPPORT. Byte strings and register files: big-endian words and their bytes are inverse, a register file gives back
the list it holds, and cutting a string into blocks loses nothing. -/

namespace Sys2Proof.Machine

/-! Register files. -/

@[simp] theorem getElem_regFile {w n : Nat} (l : List (BitVec w)) (i : Nat) (h : i < n) :
    (regFile n l)[i] = l.getD i 0 := by
  simp [regFile]

theorem toList_regFile {w n : Nat} (l : List (BitVec w)) (h : l.length = n) : (regFile n l).toList = l := by
  apply List.ext_getElem (by simp [h])
  intro i h1 h2
  simp [List.getElem?_eq_getElem h2]

theorem regFile_toList {w n : Nat} (v : Vector (BitVec w) n) : regFile n v.toList = v := by
  ext i hi
  simp [hi]

/-! Words and their bytes. -/

@[simp] theorem length_bytes32 (w : Word) : (bytes32 w).length = 4 := rfl

@[simp] theorem length_bytes64 (v : BitVec 64) : (bytes64 v).length = 8 := rfl

/-- Four bytes joined, most significant first. -/
theorem be32_cons (a b c d : Byte) (S : List Byte) : be32 (a :: b :: c :: d :: S) 0 = a ++ b ++ c ++ d := rfl

theorem be32_drop (S : List Byte) (n i : Nat) : be32 (S.drop n) i = be32 S (n + i) := by
  simp [be32, List.getD, List.getElem?_drop, Nat.add_assoc]

theorem be32_append (S U : List Byte) (i : Nat) : be32 (S ++ U) (S.length + i) = be32 U i := by
  rw [← be32_drop, List.drop_left]

theorem be32_append_left (S U : List Byte) (i : Nat) (h : i + 4 ≤ S.length) : be32 (S ++ U) i = be32 S i := by
  simp only [be32, List.getD]
  rw [List.getElem?_append_left (by omega), List.getElem?_append_left (by omega),
    List.getElem?_append_left (by omega), List.getElem?_append_left (by omega)]

@[simp] theorem be32_bytes32 (w : Word) : be32 (bytes32 w) 0 = w := by
  apply BitVec.eq_of_getLsbD_eq
  intro i hi
  simp only [bytes32, be32_cons, BitVec.getLsbD_append, BitVec.getLsbD_extractLsb']
  by_cases h0 : i < 8
  · simp [h0]
  · by_cases h1 : i < 16
    · simp [h0, show i - 8 < 8 by omega, show 8 + (i - 8) = i by omega]
    · by_cases h2 : i < 24
      · simp [h0, show ¬ i - 8 < 8 by omega, show i - 8 - 8 < 8 by omega, show 16 + (i - 8 - 8) = i by omega]
      · simp [h0, show ¬ i - 8 < 8 by omega, show ¬ i - 8 - 8 < 8 by omega, show i - 8 - 8 - 8 < 8 by omega,
          show 24 + (i - 8 - 8 - 8) = i by omega]

theorem bytes32_join (a b c d : Byte) : bytes32 (a ++ b ++ c ++ d) = [a, b, c, d] := by
  have e : ∀ (k : Nat) (x : Byte), k % 8 = 0 → k < 32 →
      (∀ i, i < 8 → (a ++ b ++ c ++ d).getLsbD (k + i) = x.getLsbD i) →
      (a ++ b ++ c ++ d).extractLsb' k 8 = x := by
    intro k x _ _ hx
    apply BitVec.eq_of_getLsbD_eq
    intro i hi
    simp only [BitVec.getLsbD_extractLsb', hi, decide_true, Bool.true_and]
    exact hx i hi
  simp only [bytes32, List.cons.injEq, and_true]
  refine ⟨e 24 a rfl (by omega) ?_, e 16 b rfl (by omega) ?_, e 8 c rfl (by omega) ?_, e 0 d rfl (by omega) ?_⟩ <;>
    intro i hi <;> simp only [BitVec.getLsbD_append]
  · simp [show ¬ 24 + i < 8 by omega, show ¬ 24 + i - 8 < 8 by omega, show ¬ 24 + i - 8 - 8 < 8 by omega,
      show 24 + i - 8 - 8 - 8 = i by omega]
  · simp [show ¬ 16 + i < 8 by omega, show ¬ 16 + i - 8 < 8 by omega, show 16 + i - 8 - 8 = i by omega]
    omega
  · simp [show ¬ 8 + i < 8 by omega, show 8 + i - 8 = i by omega]
    omega
  · simp [hi]

/-- A 16-byte block is its four big-endian words. -/
theorem bytes32_be32_block (P : List Byte) (h : P.length = 16) :
    bytes32 (be32 P 0) ++ bytes32 (be32 P 4) ++ bytes32 (be32 P 8) ++ bytes32 (be32 P 12) = P := by
  match P, h with
  | [_, _, _, _, _, _, _, _, _, _, _, _, _, _, _, _], _ => simp [be32, bytes32_join]

/-! Blocks. -/

theorem length_blockOf (n : Nat) (S : List Byte) (b : Nat) (h : n * b + n ≤ S.length) :
    (blockOf n S b).length = n := by
  simp [blockOf]; omega

theorem flatten_blocks (n : Nat) (S : List Byte) (k : Nat) :
    ((List.range k).map (blockOf n S)).flatten = S.take (n * k) := by
  induction k with
  | zero => simp
  | succ k ih =>
    rw [List.range_succ, List.map_append, List.flatten_append, ih]
    simp [blockOf, Nat.mul_succ, List.take_add]

/-- Blocks of a concatenation whose first part is one block long. -/
theorem blockOf_append (n : Nat) (S U : List Byte) (b : Nat) (h : S.length = n) :
    blockOf n (S ++ U) (b + 1) = blockOf n U b := by
  simp only [blockOf, Nat.mul_succ]
  rw [Nat.add_comm (n * b) n, ← List.drop_drop, ← h, List.drop_left]

theorem blockOf_zero (n : Nat) (S U : List Byte) (h : S.length = n) : blockOf n (S ++ U) 0 = S := by
  simp [blockOf, ← h]

theorem length_xorBytes (a b : List Byte) : (xorBytes a b).length = min a.length b.length := by
  simp [xorBytes]

/-- Xor with one string twice gives the string back. -/
theorem xorBytes_cancel (a b : List Byte) (h : a.length = b.length) : xorBytes (xorBytes a b) b = a := by
  induction a generalizing b with
  | nil => rfl
  | cons x a ih =>
    cases b with
    | nil => simp at h
    | cons y b =>
      simp only [List.length_cons, Nat.add_right_cancel_iff] at h
      simpa [xorBytes, BitVec.xor_assoc] using ih b h

end Sys2Proof.Machine
end

