-- ==== Sys2Proof/Laws/State.lean ====
section
/-! SUPPORT. One lemma per field of State and per update, so that no later proof unfolds a record update. -/

namespace Sys2Proof.Machine

/-! `DSTLEN <- n` writes the two halves (R38). -/

@[simp] theorem State.setDstlen_plat (s : State) (n : Nat) : (s.setDstlen n).plat = s.plat := rfl
@[simp] theorem State.setDstlen_cmd (s : State) (n : Nat) : (s.setDstlen n).cmd = s.cmd := rfl
@[simp] theorem State.setDstlen_status (s : State) (n : Nat) : (s.setDstlen n).status = s.status := rfl
@[simp] theorem State.setDstlen_srclenLo (s : State) (n : Nat) : (s.setDstlen n).srclenLo = s.srclenLo := rfl
@[simp] theorem State.setDstlen_srclenHi (s : State) (n : Nat) : (s.setDstlen n).srclenHi = s.srclenHi := rfl
@[simp] theorem State.setDstlen_keylen (s : State) (n : Nat) : (s.setDstlen n).keylen = s.keylen := rfl
@[simp] theorem State.setDstlen_ivlen (s : State) (n : Nat) : (s.setDstlen n).ivlen = s.ivlen := rfl
@[simp] theorem State.setDstlen_dstlenLo (s : State) (n : Nat) : (s.setDstlen n).dstlenLo = (BitVec.ofNat 64 n).extractLsb' 0 32 :=
  rfl
@[simp] theorem State.setDstlen_dstlenHi (s : State) (n : Nat) : (s.setDstlen n).dstlenHi = (BitVec.ofNat 64 n).extractLsb' 32 32 :=
  rfl
@[simp] theorem State.setDstlen_v (s : State) (n : Nat) : (s.setDstlen n).v = s.v := rfl
@[simp] theorem State.setDstlen_rk (s : State) (n : Nat) : (s.setDstlen n).rk = s.rk := rfl
@[simp] theorem State.setDstlen_src (s : State) (n : Nat) : (s.setDstlen n).src = s.src := rfl
@[simp] theorem State.setDstlen_key (s : State) (n : Nat) : (s.setDstlen n).key = s.key := rfl
@[simp] theorem State.setDstlen_iv (s : State) (n : Nat) : (s.setDstlen n).iv = s.iv := rfl
@[simp] theorem State.setDstlen_dst (s : State) (n : Nat) : (s.setDstlen n).dst = s.dst := rfl
@[simp] theorem State.setDstlen_snap (s : State) (n : Nat) : (s.setDstlen n).snap = s.snap := rfl
@[simp] theorem State.setDstlen_dp (s : State) (n : Nat) : (s.setDstlen n).dp = s.dp := rfl
@[simp] theorem State.setDstlen_epoch (s : State) (n : Nat) : (s.setDstlen n).epoch = s.epoch := rfl
@[simp] theorem State.setDstlen_draws (s : State) (n : Nat) : (s.setDstlen n).draws = s.draws := rfl
@[simp] theorem State.setDstlen_host (s : State) (n : Nat) : (s.setDstlen n).host = s.host := rfl
@[simp] theorem State.setDstlen_sched (s : State) (n : Nat) : (s.setDstlen n).sched = s.sched := rfl

/-! Acceptance latches CMD, STATUS and the snapshot (R285). -/

@[simp] theorem State.accept_plat (w : Word) (s : State) : (s.accept w).plat = s.plat := rfl
@[simp] theorem State.accept_cmd (w : Word) (s : State) : (s.accept w).cmd = w := rfl
@[simp] theorem State.accept_status (w : Word) (s : State) : (s.accept w).status = s.status.accepted := rfl
@[simp] theorem State.accept_srclenLo (w : Word) (s : State) : (s.accept w).srclenLo = s.srclenLo := rfl
@[simp] theorem State.accept_srclenHi (w : Word) (s : State) : (s.accept w).srclenHi = s.srclenHi := rfl
@[simp] theorem State.accept_keylen (w : Word) (s : State) : (s.accept w).keylen = s.keylen := rfl
@[simp] theorem State.accept_ivlen (w : Word) (s : State) : (s.accept w).ivlen = s.ivlen := rfl
@[simp] theorem State.accept_dstlenLo (w : Word) (s : State) : (s.accept w).dstlenLo = s.dstlenLo := rfl
@[simp] theorem State.accept_dstlenHi (w : Word) (s : State) : (s.accept w).dstlenHi = s.dstlenHi := rfl
@[simp] theorem State.accept_v (w : Word) (s : State) : (s.accept w).v = s.v := rfl
@[simp] theorem State.accept_rk (w : Word) (s : State) : (s.accept w).rk = s.rk := rfl
@[simp] theorem State.accept_src (w : Word) (s : State) : (s.accept w).src = s.src := rfl
@[simp] theorem State.accept_key (w : Word) (s : State) : (s.accept w).key = s.key := rfl
@[simp] theorem State.accept_iv (w : Word) (s : State) : (s.accept w).iv = s.iv := rfl
@[simp] theorem State.accept_dst (w : Word) (s : State) : (s.accept w).dst = s.dst := rfl
@[simp] theorem State.accept_snap (w : Word) (s : State) : (s.accept w).snap = s.operands := rfl
@[simp] theorem State.accept_dp (w : Word) (s : State) : (s.accept w).dp = s.dp := rfl
@[simp] theorem State.accept_epoch (w : Word) (s : State) : (s.accept w).epoch = s.epoch := rfl
@[simp] theorem State.accept_draws (w : Word) (s : State) : (s.accept w).draws = s.draws := rfl
@[simp] theorem State.accept_host (w : Word) (s : State) : (s.accept w).host = s.host := rfl
@[simp] theorem State.accept_sched (w : Word) (s : State) : (s.accept w).sched = s.sched := rfl

/-! The error outcome writes STATUS and DSTLEN only (R286). -/

@[simp] theorem State.raiseError_plat (e : CmdError) (s : State) : (s.raiseError e).plat = s.plat := rfl
@[simp] theorem State.raiseError_cmd (e : CmdError) (s : State) : (s.raiseError e).cmd = s.cmd := rfl
@[simp] theorem State.raiseError_status (e : CmdError) (s : State) : (s.raiseError e).status = s.status.failed e.code :=
  rfl
@[simp] theorem State.raiseError_srclenLo (e : CmdError) (s : State) : (s.raiseError e).srclenLo = s.srclenLo := rfl
@[simp] theorem State.raiseError_srclenHi (e : CmdError) (s : State) : (s.raiseError e).srclenHi = s.srclenHi := rfl
@[simp] theorem State.raiseError_keylen (e : CmdError) (s : State) : (s.raiseError e).keylen = s.keylen := rfl
@[simp] theorem State.raiseError_ivlen (e : CmdError) (s : State) : (s.raiseError e).ivlen = s.ivlen := rfl
@[simp] theorem State.raiseError_dstlenLo (e : CmdError) (s : State) : (s.raiseError e).dstlenLo = 0 := rfl
@[simp] theorem State.raiseError_dstlenHi (e : CmdError) (s : State) : (s.raiseError e).dstlenHi = 0 := rfl
@[simp] theorem State.raiseError_v (e : CmdError) (s : State) : (s.raiseError e).v = s.v := rfl
@[simp] theorem State.raiseError_rk (e : CmdError) (s : State) : (s.raiseError e).rk = s.rk := rfl
@[simp] theorem State.raiseError_src (e : CmdError) (s : State) : (s.raiseError e).src = s.src := rfl
@[simp] theorem State.raiseError_key (e : CmdError) (s : State) : (s.raiseError e).key = s.key := rfl
@[simp] theorem State.raiseError_iv (e : CmdError) (s : State) : (s.raiseError e).iv = s.iv := rfl
@[simp] theorem State.raiseError_dst (e : CmdError) (s : State) : (s.raiseError e).dst = s.dst := rfl
@[simp] theorem State.raiseError_snap (e : CmdError) (s : State) : (s.raiseError e).snap = s.snap := rfl
@[simp] theorem State.raiseError_dp (e : CmdError) (s : State) : (s.raiseError e).dp = s.dp := rfl
@[simp] theorem State.raiseError_epoch (e : CmdError) (s : State) : (s.raiseError e).epoch = s.epoch := rfl
@[simp] theorem State.raiseError_draws (e : CmdError) (s : State) : (s.raiseError e).draws = s.draws := rfl
@[simp] theorem State.raiseError_host (e : CmdError) (s : State) : (s.raiseError e).host = s.host := rfl
@[simp] theorem State.raiseError_sched (e : CmdError) (s : State) : (s.raiseError e).sched = s.sched := rfl

/-! The success outcome (R287). -/

@[simp] theorem State.commit_plat (o : Outputs) (s : State) : (s.commit o).plat = s.plat := rfl
@[simp] theorem State.commit_cmd (o : Outputs) (s : State) : (s.commit o).cmd = s.cmd := rfl
@[simp] theorem State.commit_status (o : Outputs) (s : State) : (s.commit o).status = s.status.succeeded o.rk.isSome :=
  rfl
@[simp] theorem State.commit_srclenLo (o : Outputs) (s : State) : (s.commit o).srclenLo = s.srclenLo := rfl
@[simp] theorem State.commit_srclenHi (o : Outputs) (s : State) : (s.commit o).srclenHi = s.srclenHi := rfl
@[simp] theorem State.commit_keylen (o : Outputs) (s : State) : (s.commit o).keylen = s.keylen := rfl
@[simp] theorem State.commit_ivlen (o : Outputs) (s : State) : (s.commit o).ivlen = s.ivlen := rfl
@[simp] theorem State.commit_dstlenLo (o : Outputs) (s : State) : (s.commit o).dstlenLo = (BitVec.ofNat 64 o.dst.length).extractLsb' 0 32 :=
  rfl
@[simp] theorem State.commit_dstlenHi (o : Outputs) (s : State) : (s.commit o).dstlenHi = (BitVec.ofNat 64 o.dst.length).extractLsb' 32 32 :=
  rfl
@[simp] theorem State.commit_v (o : Outputs) (s : State) : (s.commit o).v = o.v.getD s.v := rfl
@[simp] theorem State.commit_rk (o : Outputs) (s : State) : (s.commit o).rk = o.rk.getD s.rk := rfl
@[simp] theorem State.commit_src (o : Outputs) (s : State) : (s.commit o).src = s.src := rfl
@[simp] theorem State.commit_key (o : Outputs) (s : State) : (s.commit o).key = s.key := rfl
@[simp] theorem State.commit_iv (o : Outputs) (s : State) : (s.commit o).iv = s.iv := rfl
@[simp] theorem State.commit_dst (o : Outputs) (s : State) : (s.commit o).dst = s.dst.writeBytes 0 o.dst := rfl
@[simp] theorem State.commit_snap (o : Outputs) (s : State) : (s.commit o).snap = s.snap := rfl
@[simp] theorem State.commit_dp (o : Outputs) (s : State) : (s.commit o).dp = Config.idleDatapath s.draws := rfl
@[simp] theorem State.commit_epoch (o : Outputs) (s : State) : (s.commit o).epoch = s.epoch := rfl
@[simp] theorem State.commit_draws (o : Outputs) (s : State) : (s.commit o).draws = s.draws + 1 := rfl
@[simp] theorem State.commit_host (o : Outputs) (s : State) : (s.commit o).host = s.host := rfl
@[simp] theorem State.commit_sched (o : Outputs) (s : State) : (s.commit o).sched = s.sched := rfl

/-! Moving the host's position. -/

@[simp] theorem State.hostAt_plat (p : Nat) (s : State) : (s.hostAt p).plat = s.plat := rfl
@[simp] theorem State.hostAt_cmd (p : Nat) (s : State) : (s.hostAt p).cmd = s.cmd := rfl
@[simp] theorem State.hostAt_status (p : Nat) (s : State) : (s.hostAt p).status = s.status := rfl
@[simp] theorem State.hostAt_srclenLo (p : Nat) (s : State) : (s.hostAt p).srclenLo = s.srclenLo := rfl
@[simp] theorem State.hostAt_srclenHi (p : Nat) (s : State) : (s.hostAt p).srclenHi = s.srclenHi := rfl
@[simp] theorem State.hostAt_keylen (p : Nat) (s : State) : (s.hostAt p).keylen = s.keylen := rfl
@[simp] theorem State.hostAt_ivlen (p : Nat) (s : State) : (s.hostAt p).ivlen = s.ivlen := rfl
@[simp] theorem State.hostAt_dstlenLo (p : Nat) (s : State) : (s.hostAt p).dstlenLo = s.dstlenLo := rfl
@[simp] theorem State.hostAt_dstlenHi (p : Nat) (s : State) : (s.hostAt p).dstlenHi = s.dstlenHi := rfl
@[simp] theorem State.hostAt_v (p : Nat) (s : State) : (s.hostAt p).v = s.v := rfl
@[simp] theorem State.hostAt_rk (p : Nat) (s : State) : (s.hostAt p).rk = s.rk := rfl
@[simp] theorem State.hostAt_src (p : Nat) (s : State) : (s.hostAt p).src = s.src := rfl
@[simp] theorem State.hostAt_key (p : Nat) (s : State) : (s.hostAt p).key = s.key := rfl
@[simp] theorem State.hostAt_iv (p : Nat) (s : State) : (s.hostAt p).iv = s.iv := rfl
@[simp] theorem State.hostAt_dst (p : Nat) (s : State) : (s.hostAt p).dst = s.dst := rfl
@[simp] theorem State.hostAt_snap (p : Nat) (s : State) : (s.hostAt p).snap = s.snap := rfl
@[simp] theorem State.hostAt_dp (p : Nat) (s : State) : (s.hostAt p).dp = s.dp := rfl
@[simp] theorem State.hostAt_epoch (p : Nat) (s : State) : (s.hostAt p).epoch = s.epoch := rfl
@[simp] theorem State.hostAt_draws (p : Nat) (s : State) : (s.hostAt p).draws = s.draws := rfl
@[simp] theorem State.hostAt_host (p : Nat) (s : State) : (s.hostAt p).host = { s.host with pos := p } := rfl
@[simp] theorem State.hostAt_sched (p : Nat) (s : State) : (s.hostAt p).sched = s.sched := rfl

/-! Naming a read's value. -/

@[simp] theorem State.bindName_plat (n : Name) (x : Word) (s : State) : (s.bindName n x).plat = s.plat := rfl
@[simp] theorem State.bindName_cmd (n : Name) (x : Word) (s : State) : (s.bindName n x).cmd = s.cmd := rfl
@[simp] theorem State.bindName_status (n : Name) (x : Word) (s : State) : (s.bindName n x).status = s.status := rfl
@[simp] theorem State.bindName_srclenLo (n : Name) (x : Word) (s : State) : (s.bindName n x).srclenLo = s.srclenLo :=
  rfl
@[simp] theorem State.bindName_srclenHi (n : Name) (x : Word) (s : State) : (s.bindName n x).srclenHi = s.srclenHi :=
  rfl
@[simp] theorem State.bindName_keylen (n : Name) (x : Word) (s : State) : (s.bindName n x).keylen = s.keylen := rfl
@[simp] theorem State.bindName_ivlen (n : Name) (x : Word) (s : State) : (s.bindName n x).ivlen = s.ivlen := rfl
@[simp] theorem State.bindName_dstlenLo (n : Name) (x : Word) (s : State) : (s.bindName n x).dstlenLo = s.dstlenLo :=
  rfl
@[simp] theorem State.bindName_dstlenHi (n : Name) (x : Word) (s : State) : (s.bindName n x).dstlenHi = s.dstlenHi :=
  rfl
@[simp] theorem State.bindName_v (n : Name) (x : Word) (s : State) : (s.bindName n x).v = s.v := rfl
@[simp] theorem State.bindName_rk (n : Name) (x : Word) (s : State) : (s.bindName n x).rk = s.rk := rfl
@[simp] theorem State.bindName_src (n : Name) (x : Word) (s : State) : (s.bindName n x).src = s.src := rfl
@[simp] theorem State.bindName_key (n : Name) (x : Word) (s : State) : (s.bindName n x).key = s.key := rfl
@[simp] theorem State.bindName_iv (n : Name) (x : Word) (s : State) : (s.bindName n x).iv = s.iv := rfl
@[simp] theorem State.bindName_dst (n : Name) (x : Word) (s : State) : (s.bindName n x).dst = s.dst := rfl
@[simp] theorem State.bindName_snap (n : Name) (x : Word) (s : State) : (s.bindName n x).snap = s.snap := rfl
@[simp] theorem State.bindName_dp (n : Name) (x : Word) (s : State) : (s.bindName n x).dp = s.dp := rfl
@[simp] theorem State.bindName_epoch (n : Name) (x : Word) (s : State) : (s.bindName n x).epoch = s.epoch := rfl
@[simp] theorem State.bindName_draws (n : Name) (x : Word) (s : State) : (s.bindName n x).draws = s.draws := rfl
@[simp] theorem State.bindName_host (n : Name) (x : Word) (s : State) : (s.bindName n x).host = { s.host with env := (n, x) :: s.host.env } :=
  rfl
@[simp] theorem State.bindName_sched (n : Name) (x : Word) (s : State) : (s.bindName n x).sched = s.sched := rfl

/-! Drawing a free value advances the counter only. -/

@[simp] theorem State.drawn_plat (s : State) : (s.draw.2).plat = s.plat := rfl
@[simp] theorem State.drawn_cmd (s : State) : (s.draw.2).cmd = s.cmd := rfl
@[simp] theorem State.drawn_status (s : State) : (s.draw.2).status = s.status := rfl
@[simp] theorem State.drawn_srclenLo (s : State) : (s.draw.2).srclenLo = s.srclenLo := rfl
@[simp] theorem State.drawn_srclenHi (s : State) : (s.draw.2).srclenHi = s.srclenHi := rfl
@[simp] theorem State.drawn_keylen (s : State) : (s.draw.2).keylen = s.keylen := rfl
@[simp] theorem State.drawn_ivlen (s : State) : (s.draw.2).ivlen = s.ivlen := rfl
@[simp] theorem State.drawn_dstlenLo (s : State) : (s.draw.2).dstlenLo = s.dstlenLo := rfl
@[simp] theorem State.drawn_dstlenHi (s : State) : (s.draw.2).dstlenHi = s.dstlenHi := rfl
@[simp] theorem State.drawn_v (s : State) : (s.draw.2).v = s.v := rfl
@[simp] theorem State.drawn_rk (s : State) : (s.draw.2).rk = s.rk := rfl
@[simp] theorem State.drawn_src (s : State) : (s.draw.2).src = s.src := rfl
@[simp] theorem State.drawn_key (s : State) : (s.draw.2).key = s.key := rfl
@[simp] theorem State.drawn_iv (s : State) : (s.draw.2).iv = s.iv := rfl
@[simp] theorem State.drawn_dst (s : State) : (s.draw.2).dst = s.dst := rfl
@[simp] theorem State.drawn_snap (s : State) : (s.draw.2).snap = s.snap := rfl
@[simp] theorem State.drawn_dp (s : State) : (s.draw.2).dp = s.dp := rfl
@[simp] theorem State.drawn_epoch (s : State) : (s.draw.2).epoch = s.epoch := rfl
@[simp] theorem State.drawn_draws (s : State) : (s.draw.2).draws = s.draws + 1 := rfl
@[simp] theorem State.drawn_host (s : State) : (s.draw.2).host = s.host := rfl
@[simp] theorem State.drawn_sched (s : State) : (s.draw.2).sched = s.sched := rfl

/-! Using up a turn changes the interleaving only. -/

@[simp] theorem State.takeTurn_plat (s : State) : (s.takeTurn).plat = s.plat := by
  unfold State.takeTurn; split <;> rfl
@[simp] theorem State.takeTurn_cmd (s : State) : (s.takeTurn).cmd = s.cmd := by
  unfold State.takeTurn; split <;> rfl
@[simp] theorem State.takeTurn_status (s : State) : (s.takeTurn).status = s.status := by
  unfold State.takeTurn; split <;> rfl
@[simp] theorem State.takeTurn_srclenLo (s : State) : (s.takeTurn).srclenLo = s.srclenLo := by
  unfold State.takeTurn; split <;> rfl
@[simp] theorem State.takeTurn_srclenHi (s : State) : (s.takeTurn).srclenHi = s.srclenHi := by
  unfold State.takeTurn; split <;> rfl
@[simp] theorem State.takeTurn_keylen (s : State) : (s.takeTurn).keylen = s.keylen := by
  unfold State.takeTurn; split <;> rfl
@[simp] theorem State.takeTurn_ivlen (s : State) : (s.takeTurn).ivlen = s.ivlen := by
  unfold State.takeTurn; split <;> rfl
@[simp] theorem State.takeTurn_dstlenLo (s : State) : (s.takeTurn).dstlenLo = s.dstlenLo := by
  unfold State.takeTurn; split <;> rfl
@[simp] theorem State.takeTurn_dstlenHi (s : State) : (s.takeTurn).dstlenHi = s.dstlenHi := by
  unfold State.takeTurn; split <;> rfl
@[simp] theorem State.takeTurn_v (s : State) : (s.takeTurn).v = s.v := by
  unfold State.takeTurn; split <;> rfl
@[simp] theorem State.takeTurn_rk (s : State) : (s.takeTurn).rk = s.rk := by
  unfold State.takeTurn; split <;> rfl
@[simp] theorem State.takeTurn_src (s : State) : (s.takeTurn).src = s.src := by
  unfold State.takeTurn; split <;> rfl
@[simp] theorem State.takeTurn_key (s : State) : (s.takeTurn).key = s.key := by
  unfold State.takeTurn; split <;> rfl
@[simp] theorem State.takeTurn_iv (s : State) : (s.takeTurn).iv = s.iv := by
  unfold State.takeTurn; split <;> rfl
@[simp] theorem State.takeTurn_dst (s : State) : (s.takeTurn).dst = s.dst := by
  unfold State.takeTurn; split <;> rfl
@[simp] theorem State.takeTurn_snap (s : State) : (s.takeTurn).snap = s.snap := by
  unfold State.takeTurn; split <;> rfl
@[simp] theorem State.takeTurn_dp (s : State) : (s.takeTurn).dp = s.dp := by
  unfold State.takeTurn; split <;> rfl
@[simp] theorem State.takeTurn_epoch (s : State) : (s.takeTurn).epoch = s.epoch := by
  unfold State.takeTurn; split <;> rfl
@[simp] theorem State.takeTurn_draws (s : State) : (s.takeTurn).draws = s.draws := by
  unfold State.takeTurn; split <;> rfl
@[simp] theorem State.takeTurn_host (s : State) : (s.takeTurn).host = s.host := by
  unfold State.takeTurn; split <;> rfl
@[simp] theorem State.takeTurn_sched (s : State) : (s.takeTurn).sched = if s.status.busy then s.sched.tail else s.sched := by
  unfold State.takeTurn; split <;> simp_all

/-! Loading a source string (R118). -/

@[simp] theorem State.withSource_plat (S : List Byte) (s : State) : (s.withSource S).plat = s.plat := rfl
@[simp] theorem State.withSource_cmd (S : List Byte) (s : State) : (s.withSource S).cmd = s.cmd := rfl
@[simp] theorem State.withSource_status (S : List Byte) (s : State) : (s.withSource S).status = s.status := rfl
@[simp] theorem State.withSource_srclenLo (S : List Byte) (s : State) : (s.withSource S).srclenLo = (BitVec.ofNat 64 S.length).extractLsb' 0 32 :=
  rfl
@[simp] theorem State.withSource_srclenHi (S : List Byte) (s : State) : (s.withSource S).srclenHi = (BitVec.ofNat 64 S.length).extractLsb' 32 32 :=
  rfl
@[simp] theorem State.withSource_keylen (S : List Byte) (s : State) : (s.withSource S).keylen = s.keylen := rfl
@[simp] theorem State.withSource_ivlen (S : List Byte) (s : State) : (s.withSource S).ivlen = s.ivlen := rfl
@[simp] theorem State.withSource_dstlenLo (S : List Byte) (s : State) : (s.withSource S).dstlenLo = s.dstlenLo := rfl
@[simp] theorem State.withSource_dstlenHi (S : List Byte) (s : State) : (s.withSource S).dstlenHi = s.dstlenHi := rfl
@[simp] theorem State.withSource_v (S : List Byte) (s : State) : (s.withSource S).v = s.v := rfl
@[simp] theorem State.withSource_rk (S : List Byte) (s : State) : (s.withSource S).rk = s.rk := rfl
@[simp] theorem State.withSource_src (S : List Byte) (s : State) : (s.withSource S).src = s.src.writeBytes 0 S := rfl
@[simp] theorem State.withSource_key (S : List Byte) (s : State) : (s.withSource S).key = s.key := rfl
@[simp] theorem State.withSource_iv (S : List Byte) (s : State) : (s.withSource S).iv = s.iv := rfl
@[simp] theorem State.withSource_dst (S : List Byte) (s : State) : (s.withSource S).dst = s.dst := rfl
@[simp] theorem State.withSource_snap (S : List Byte) (s : State) : (s.withSource S).snap = s.snap := rfl
@[simp] theorem State.withSource_dp (S : List Byte) (s : State) : (s.withSource S).dp = s.dp := rfl
@[simp] theorem State.withSource_epoch (S : List Byte) (s : State) : (s.withSource S).epoch = s.epoch := rfl
@[simp] theorem State.withSource_draws (S : List Byte) (s : State) : (s.withSource S).draws = s.draws := rfl
@[simp] theorem State.withSource_host (S : List Byte) (s : State) : (s.withSource S).host = s.host := rfl
@[simp] theorem State.withSource_sched (S : List Byte) (s : State) : (s.withSource S).sched = s.sched := rfl

end Sys2Proof.Machine
end

