-- ==== Sys2Proof/Laws/Memory.lean ====
section
/-! SUPPORT. Buffers: a read after a write gives the value written and a write leaves every other offset alone; every
operation keeps the canonical form; equal memories are equal data; what each update does to a buffer read. -/

namespace Sys2Proof.Machine

/-! The platform. -/

theorem Platform.wf_iff (p : Platform) :
    p.wf = true ↔ 64 ≤ p.srcCap ∧ p.srcCap ≤ 2 ^ 61 - 1 ∧ p.mmioBase % 4 = 0 := by
  simp only [Platform.wf, Bool.and_eq_true, decide_eq_true_eq, and_assoc]

theorem platform_wf : Config.platform.wf = true := by
  rw [Platform.wf_iff]
  have := Nat.mod_lt Config.srcCapFree (show 2 ^ 61 - 64 > 0 by decide)
  simp only [Config.platform]
  omega

/-- DST_CAP is far below 2^64, so a DSTLEN up to it is exact. -/
theorem Platform.dstCap_lt {p : Platform} (h : p.wf = true) : p.dstCap < 2 ^ 64 := by
  rw [Platform.wf_iff] at h
  simp only [Platform.dstCap]
  omega

/-! Read after write. -/

@[simp] theorem Memory.find_write (m : Memory) (a b : Nat) (v : Byte) :
    (m.write a v).find b = if b = a then some v else m.find b := by
  induction m with
  | nil => simp [Memory.write, Memory.find]
  | cons c m ih =>
    obtain ⟨d, u⟩ := c
    simp only [Memory.write]
    split
    · simp [Memory.find]
    · split
      · next h => subst h; simp only [Memory.find]; split <;> rfl
      · simp only [Memory.find, ih]
        split
        · split
          · omega
          · rfl
        · rfl

theorem Memory.find_writeBytes (m : Memory) (a b : Nat) (vs : List Byte) :
    (m.writeBytes a vs).find b = if a ≤ b ∧ b < a + vs.length then vs[b - a]? else m.find b := by
  induction vs generalizing m a with
  | nil => simp [Memory.writeBytes]
  | cons v vs ih =>
    simp only [Memory.writeBytes, ih, Memory.find_write, List.length_cons]
    by_cases h : b = a
    · subst h; simp
    · by_cases h2 : a + 1 ≤ b ∧ b < a + 1 + vs.length
      · rw [if_pos h2, if_pos (by omega)]
        obtain ⟨k, rfl⟩ : ∃ k, b = a + 1 + k := ⟨b - (a + 1), by omega⟩
        rw [show a + 1 + k - (a + 1) = k by omega, show a + 1 + k - a = k + 1 by omega]
        simp
      · rw [if_neg h2, if_neg h, if_neg (by omega)]

/-! The canonical form. -/

theorem Memory.risingFrom_mono {lo hi : Nat} {m : Memory} (h : Memory.risingFrom hi m = true) (hl : lo ≤ hi) :
    Memory.risingFrom lo m = true := by
  cases m with
  | nil => rfl
  | cons c m =>
    obtain ⟨d, u⟩ := c
    simp only [Memory.risingFrom, Bool.and_eq_true, decide_eq_true_eq] at h ⊢
    exact ⟨by omega, h.2⟩

theorem Memory.risingFrom_write {lo : Nat} {m : Memory} (a : Nat) (v : Byte)
    (h : Memory.risingFrom lo m = true) (hl : lo ≤ a) : Memory.risingFrom lo (m.write a v) = true := by
  induction m generalizing lo with
  | nil => simp [Memory.write, Memory.risingFrom, hl]
  | cons c m ih =>
    obtain ⟨d, u⟩ := c
    simp only [Memory.risingFrom, Bool.and_eq_true, decide_eq_true_eq] at h
    simp only [Memory.write]
    split
    · next hd => simp [Memory.risingFrom, hl, h.2]; omega
    · split
      · next he => subst he; simp [Memory.risingFrom, hl, h.2]
      · simp only [Memory.risingFrom, Bool.and_eq_true, decide_eq_true_eq]
        exact ⟨h.1, ih h.2 (by omega)⟩

theorem Memory.below_write {cap : Nat} {m : Memory} (a : Nat) (v : Byte)
    (h : (m.all fun c => decide (c.1 < cap)) = true) (ha : a < cap) :
    ((m.write a v).all fun c => decide (c.1 < cap)) = true := by
  induction m with
  | nil => simp [Memory.write, ha]
  | cons c m ih =>
    simp only [List.all_cons, Bool.and_eq_true] at h
    simp only [Memory.write]
    split
    · simp only [List.all_cons, Bool.and_eq_true]; exact ⟨by simpa using ha, h⟩
    · split
      · simp only [List.all_cons, Bool.and_eq_true]; exact ⟨by simpa using ha, h.2⟩
      · simp only [List.all_cons, Bool.and_eq_true]; exact ⟨h.1, ih h.2⟩

@[simp] theorem Memory.wf_nil (cap : Nat) : Memory.wf cap [] = true := rfl

theorem Memory.wf_write {cap : Nat} {m : Memory} (a : Nat) (v : Byte) (h : Memory.wf cap m = true) (ha : a < cap) :
    Memory.wf cap (m.write a v) = true := by
  simp only [Memory.wf, Bool.and_eq_true] at h ⊢
  exact ⟨Memory.risingFrom_write a v h.1 (Nat.zero_le a), Memory.below_write a v h.2 ha⟩

theorem Memory.wf_writeBytes {cap : Nat} {m : Memory} (a : Nat) (vs : List Byte) (h : Memory.wf cap m = true)
    (ha : a + vs.length ≤ cap) : Memory.wf cap (m.writeBytes a vs) = true := by
  induction vs generalizing m a with
  | nil => exact h
  | cons v vs ih =>
    simp only [List.length_cons] at ha
    exact ih (a + 1) (Memory.wf_write a v h (by omega)) (by omega)

theorem Memory.find_below {lo : Nat} {m : Memory} (h : Memory.risingFrom lo m = true) {a : Nat} (ha : a < lo) :
    m.find a = none := by
  induction m generalizing lo with
  | nil => rfl
  | cons c m ih =>
    obtain ⟨d, u⟩ := c
    simp only [Memory.risingFrom, Bool.and_eq_true, decide_eq_true_eq] at h
    simp only [Memory.find]
    rw [if_neg (by omega)]
    exact ih h.2 (by omega)

/-- Two buffers in canonical form that hold the same written bytes are the same data. -/
theorem Memory.ext_of_find {lo : Nat} {m n : Memory} (hm : Memory.risingFrom lo m = true)
    (hn : Memory.risingFrom lo n = true) (h : ∀ a, m.find a = n.find a) : m = n := by
  induction m generalizing lo n with
  | nil =>
    cases n with
    | nil => rfl
    | cons c n => obtain ⟨d, u⟩ := c; simpa [Memory.find] using h d
  | cons c m ih =>
    obtain ⟨d, u⟩ := c
    cases n with
    | nil => simpa [Memory.find] using h d
    | cons c n =>
      obtain ⟨e, w⟩ := c
      simp only [Memory.risingFrom, Bool.and_eq_true, decide_eq_true_eq] at hm hn
      have hde : d = e := by
        rcases Nat.lt_trichotomy d e with hlt | heq | hgt
        · have := h d
          simp only [Memory.find, if_pos] at this
          rw [if_neg (by omega), Memory.find_below hn.2 (by omega)] at this
          simp at this
        · exact heq
        · have := h e
          simp only [Memory.find, if_pos] at this
          rw [if_neg (by omega), Memory.find_below hm.2 (by omega)] at this
          simp at this
      subst hde
      have huw : u = w := by simpa [Memory.find] using h d
      subst huw
      rw [ih hm.2 hn.2]
      intro a
      by_cases ha : a = d
      · subst ha; rw [Memory.find_below hm.2 (by omega), Memory.find_below hn.2 (by omega)]
      · simpa [Memory.find, ha] using h a

/-! Buffers under the updates. -/

@[simp] theorem State.buf_raiseError (e : CmdError) (s : State) (sp : Space) : (s.raiseError e).buf sp = s.buf sp := by
  cases sp <;> rfl

@[simp] theorem State.buf_accept (w : Word) (s : State) (sp : Space) : (s.accept w).buf sp = s.buf sp := by
  cases sp <;> rfl

@[simp] theorem State.buf_hostAt (p : Nat) (s : State) (sp : Space) : (s.hostAt p).buf sp = s.buf sp := by
  cases sp <;> rfl

@[simp] theorem State.buf_bindName (n : Name) (x : Word) (s : State) (sp : Space) :
    (s.bindName n x).buf sp = s.buf sp := by
  cases sp <;> rfl

@[simp] theorem State.buf_takeTurn (s : State) (sp : Space) : s.takeTurn.buf sp = s.buf sp := by
  cases sp <;> simp [State.buf]

@[simp] theorem State.buf_drawn (s : State) (sp : Space) : s.draw.2.buf sp = s.buf sp := by
  cases sp <;> rfl

theorem State.buf_commit (o : Outputs) (s : State) (sp : Space) :
    (s.commit o).buf sp = if sp = .dst then s.dst.writeBytes 0 o.dst else s.buf sp := by
  cases sp <;> simp [State.buf]

theorem State.buf_withSource (S : List Byte) (s : State) (sp : Space) :
    (s.withSource S).buf sp = if sp = .src then s.src.writeBytes 0 S else s.buf sp := by
  cases sp <;> simp [State.buf]

theorem State.buf_storeByte (s : State) (sp sq : Space) (off : Nat) (v : Byte) :
    (s.storeByte sp off v).buf sq = if sq = sp ∧ sp ≠ .dst then (s.buf sq).write off v else s.buf sq := by
  cases sp <;> cases sq <;> simp [State.buf, State.storeByte]

/-! Reads under the updates. -/

theorem State.readByte_congr {s t : State} {sp : Space} (hb : t.buf sp = s.buf sp) (he : t.epoch = s.epoch)
    (off : Nat) : t.readByte sp off = s.readByte sp off := by
  simp [State.readByte, hb, he]

@[simp] theorem State.readByte_raiseError (e : CmdError) (s : State) (sp : Space) (off : Nat) :
    (s.raiseError e).readByte sp off = s.readByte sp off :=
  State.readByte_congr (by simp) (by simp) off

@[simp] theorem State.readByte_accept (w : Word) (s : State) (sp : Space) (off : Nat) :
    (s.accept w).readByte sp off = s.readByte sp off :=
  State.readByte_congr (by simp) (by simp) off

/-- A committed string reads back; every other byte of every buffer is as before. -/
theorem State.readByte_commit (o : Outputs) (s : State) (sp : Space) (off : Nat) :
    (s.commit o).readByte sp off =
      if sp = .dst ∧ off < o.dst.length then o.dst.getD off 0 else s.readByte sp off := by
  simp only [State.readByte, State.buf_commit, State.commit_epoch]
  by_cases hsp : sp = .dst
  · subst hsp
    simp only [if_pos, true_and, Memory.find_writeBytes, Nat.zero_le, Nat.zero_add, Nat.sub_zero]
    split
    · next h => simp [List.getElem?_eq_getElem h]
    · rfl
  · simp [hsp]

theorem State.readByte_withSource (S : List Byte) (s : State) (sp : Space) (off : Nat) :
    (s.withSource S).readByte sp off =
      if sp = .src ∧ off < S.length then S.getD off 0 else s.readByte sp off := by
  simp only [State.readByte, State.buf_withSource, State.withSource_epoch]
  by_cases hsp : sp = .src
  · subst hsp
    simp only [if_pos, true_and, Memory.find_writeBytes, Nat.zero_le, Nat.zero_add, Nat.sub_zero]
    split
    · next h => simp [List.getElem?_eq_getElem h]
    · rfl
  · simp [hsp]

@[simp] theorem State.length_memRead (s : State) (sp : Space) (off n : Nat) : (s.memRead sp off n).length = n := by
  simp [State.memRead]

theorem State.memRead_congr {s t : State} {sp : Space} (h : ∀ a, t.readByte sp a = s.readByte sp a) (off n : Nat) :
    t.memRead sp off n = s.memRead sp off n := by
  simp [State.memRead, h]

/-- A run of bytes that reads, byte by byte, as the string `S`. -/
theorem State.memRead_eq (s : State) (sp : Space) (S : List Byte)
    (h : ∀ a, a < S.length → s.readByte sp a = S.getD a 0) : s.memRead sp 0 S.length = S := by
  apply List.ext_getElem (by simp)
  intro i h1 h2
  simp only [State.memRead, List.getElem_map, List.getElem_range, Nat.zero_add]
  rw [h i h2]
  simp [List.getD, List.getElem?_eq_getElem h2]

theorem State.memRead_commit (o : Outputs) (s : State) : (s.commit o).memRead .dst 0 o.dst.length = o.dst :=
  State.memRead_eq _ _ _ fun a ha => by simp [State.readByte_commit, ha]

theorem State.memRead_withSource (S : List Byte) (s : State) : (s.withSource S).memRead .src 0 S.length = S :=
  State.memRead_eq _ _ _ fun a ha => by simp [State.readByte_withSource, ha]

/-! The 64-bit lengths. -/

theorem State.dstlen_halves (x : BitVec 64) : x.extractLsb' 32 32 ++ x.extractLsb' 0 32 = x := by
  apply BitVec.eq_of_getLsbD_eq
  intro i hi
  simp only [BitVec.getLsbD_append, BitVec.getLsbD_extractLsb']
  by_cases h : i < 32
  · simp [h]
  · simp [h]; rw [Nat.add_sub_of_le (by omega)]; simp; omega

@[simp] theorem extract_lo (a b : Word) : (a ++ b).extractLsb' 0 32 = b := by
  apply BitVec.eq_of_getLsbD_eq
  intro i hi
  simp only [BitVec.getLsbD_extractLsb', BitVec.getLsbD_append, Nat.zero_add, hi, decide_true, Bool.true_and, if_true]

@[simp] theorem extract_hi (a b : Word) : (a ++ b).extractLsb' 32 32 = a := by
  apply BitVec.eq_of_getLsbD_eq
  intro i hi
  simp only [BitVec.getLsbD_extractLsb', BitVec.getLsbD_append, hi, decide_true, Bool.true_and,
    if_neg (show ¬ 32 + i < 32 by omega), Nat.add_sub_cancel_left]

@[simp] theorem State.dstlen_commit (o : Outputs) (s : State) :
    (s.commit o).dstlen = BitVec.ofNat 64 o.dst.length := by
  simp only [State.dstlen, State.commit_dstlenLo, State.commit_dstlenHi]
  exact State.dstlen_halves _

@[simp] theorem State.dstlen_raiseError (e : CmdError) (s : State) : (s.raiseError e).dstlen = 0 := by
  simp only [State.dstlen, State.raiseError_dstlenLo, State.raiseError_dstlenHi]
  decide

@[simp] theorem State.srclen_withSource (S : List Byte) (s : State) :
    (s.withSource S).srclen = BitVec.ofNat 64 S.length := by
  simp only [State.srclen, State.withSource_srclenLo, State.withSource_srclenHi]
  exact State.dstlen_halves _

end Sys2Proof.Machine
end

