-- ==== Sys2Proof/Laws/Pkcs7.lean ====
section
/-! SUPPORT. The sizes of the padding unit's strings. -/

namespace Sys2Proof.Machine

theorem length_pkcs7Pad (S : List Byte) : (pkcs7Pad S).length = 16 * (S.length / 16 + 1) := by
  simp [pkcs7Pad, padLen]; omega

theorem length_pkcs7Pad_le (S : List Byte) : (pkcs7Pad S).length ≤ S.length + 16 := by
  rw [length_pkcs7Pad]; omega

theorem length_pkcs7Unpad_le (S : List Byte) : (pkcs7Unpad S).length ≤ S.length := by
  unfold pkcs7Unpad
  split
  · exact Nat.le_refl _
  · split
    · simp
    · exact Nat.le_refl _

end Sys2Proof.Machine
end

