-- ==== Sys2Proof/Laws/Sm4.lean ====
section
/-! SUPPORT. SM4: the recurrence as a run over four-word windows, the sizes of its strings, and the engine's registers
hold the values of the functions. -/

namespace Sys2Proof.Machine

@[simp] theorem length_sm4Window (F : Word → Word) (cs : List Word) (z0 z1 z2 z3 : Word) :
    (sm4Window F cs z0 z1 z2 z3).length = cs.length := by
  induction cs generalizing z0 z1 z2 z3 with
  | nil => rfl
  | cons c cs ih => simp [sm4Window, ih]

@[simp] theorem length_sm4RoundKeys (key : List Byte) : (sm4RoundKeys key).length = 32 := by
  simp [sm4RoundKeys, sm4Ck]

@[simp] theorem length_encOrder (rk : Vector Word 32) : (encOrder rk).length = 32 := by simp [encOrder]

@[simp] theorem length_decOrder (rk : Vector Word 32) : (decOrder rk).length = 32 := by simp [decOrder]

@[simp] theorem length_sm4Out (x : Vector Word 36) : (sm4Out x).length = 16 := rfl

@[simp] theorem length_sm4Block (rk : List Word) (P : List Byte) : (sm4Block rk P).length = 16 := rfl

@[simp] theorem length_sm4Enc (rk : Vector Word 32) (P : List Byte) : (sm4Enc rk P).length = 16 := rfl

@[simp] theorem length_sm4Dec (rk : Vector Word 32) (C : List Byte) : (sm4Dec rk C).length = 16 := rfl

/-! The recurrence as a run over windows. -/

/-- A window z[i..i+3]. -/
abbrev Win := Word × Word × Word × Word

/-- One round: the window moves on by one word. -/
def winStep (F : Word → Word) (t : Win) (c : Word) : Win :=
  (t.2.1, t.2.2.1, t.2.2.2, t.1 ^^^ F (t.2.1 ^^^ t.2.2.1 ^^^ t.2.2.2 ^^^ c))

/-- The window after all rounds. -/
def winRun (F : Word → Word) (cs : List Word) (t : Win) : Win := cs.foldl (winStep F) t

/-- The last four words of the recurrence are the last window. -/
theorem sm4Window_last (F : Word → Word) (cs : List Word) (z0 z1 z2 z3 : Word) :
    winRun F cs (z0, z1, z2, z3) =
      ((z0 :: z1 :: z2 :: z3 :: sm4Window F cs z0 z1 z2 z3).getD cs.length 0,
        (z0 :: z1 :: z2 :: z3 :: sm4Window F cs z0 z1 z2 z3).getD (cs.length + 1) 0,
        (z0 :: z1 :: z2 :: z3 :: sm4Window F cs z0 z1 z2 z3).getD (cs.length + 2) 0,
        (z0 :: z1 :: z2 :: z3 :: sm4Window F cs z0 z1 z2 z3).getD (cs.length + 3) 0) := by
  induction cs generalizing z0 z1 z2 z3 with
  | nil => rfl
  | cons c cs ih =>
    have := ih z1 z2 z3 (z0 ^^^ F (z1 ^^^ z2 ^^^ z3 ^^^ c))
    simp only [winRun, List.foldl_cons, winStep, List.length_cons] at this ⊢
    rw [this]
    rfl

/-- The window a block starts from. -/
def winOf (P : List Byte) : Win := (be32 P 0, be32 P 4, be32 P 8, be32 P 12)

/-- A window's words, last first, serialised: the form of an output block (R197). -/
def winOut (t : Win) : List Byte := bytes32 t.2.2.2 ++ bytes32 t.2.2.1 ++ bytes32 t.2.1 ++ bytes32 t.1

/-- The block transform is the run of its window. -/
theorem sm4Block_eq (rk : List Word) (P : List Byte) (h : rk.length = 32) :
    sm4Block rk P = winOut (winRun sm4T rk (winOf P)) := by
  rw [winOf, sm4Window_last, h]
  simp only [sm4Block, sm4Out, getElem_regFile, sm4X, winOut]
  rfl

/-! The registers. -/

@[simp] theorem Datapath.rks_keyExp (key : List Byte) (d : Datapath) : (d.keyExp key).rks = sm4Keyexp key := rfl

@[simp] theorem Datapath.x_block (rk : List Word) (P : List Byte) (d : Datapath) :
    sm4Out (d.block rk P).x = sm4Block rk P := rfl

end Sys2Proof.Machine
end

