-- ==== Sys2Proof/Laws/Modes.lean ====
section
/-! SUPPORT. The mode sequencer: its loop over registers is a fold over the blocks, and the sizes of its strings. -/

namespace Sys2Proof.Machine

@[simp] theorem length_blocks16 (S : List Byte) : (blocks16 S).length = S.length / 16 := by simp [blocks16]

/-- Every block of a string is 16 bytes long. -/
theorem length_of_mem_blocks16 {S B : List Byte} (h : B ∈ blocks16 S) : B.length = 16 := by
  simp only [blocks16, List.mem_map, List.mem_range] at h
  obtain ⟨b, hb, rfl⟩ := h
  exact length_blockOf 16 S b (by omega)

/-- A string of whole blocks is the concatenation of its blocks (R251). -/
theorem flatten_blocks16 (S : List Byte) (h : S.length % 16 = 0) : (blocks16 S).flatten = S := by
  rw [blocks16, flatten_blocks, List.take_of_length_le (by omega)]

theorem length_flatMap_const {f : List Byte → List Byte} {n : Nat} (h : ∀ B, (f B).length = n)
    (Bs : List (List Byte)) : (Bs.flatMap f).length = n * Bs.length := by
  induction Bs with
  | nil => simp
  | cons B Bs ih => simp only [List.flatMap_cons, List.length_append, h, ih, List.length_cons]; ring

theorem length_ecbEnc (rk : Vector Word 32) (P : List Byte) : (ecbEnc rk P).length = 16 * (P.length / 16 + 1) := by
  rw [ecbEnc, length_flatMap_const (length_sm4Enc rk), length_blocks16, length_pkcs7Pad]
  omega

theorem length_cbcEncLoop (rk : Vector Word 32) (c : List Byte) (Bs : List (List Byte)) :
    (cbcEncLoop rk c Bs).length = 16 * Bs.length := by
  induction Bs generalizing c with
  | nil => rfl
  | cons B Bs ih => simp only [cbcEncLoop, List.length_append, ih, length_sm4Enc, List.length_cons]; ring

theorem length_cbcEnc (rk : Vector Word 32) (iv P : List Byte) :
    (cbcEnc rk iv P).length = 16 * (P.length / 16 + 1) := by
  rw [cbcEnc, length_cbcEncLoop, length_blocks16, length_pkcs7Pad]
  omega

theorem length_cbcDecLoop (rk : Vector Word 32) (c : List Byte) (Bs : List (List Byte)) :
    (cbcDecLoop rk c Bs).length ≤ 16 * Bs.length := by
  induction Bs generalizing c with
  | nil => exact Nat.le_refl _
  | cons B Bs ih =>
    have := ih B
    simp only [cbcDecLoop, List.length_append, length_xorBytes, length_sm4Dec, List.length_cons]
    omega

theorem length_ecbDec_le (rk : Vector Word 32) (C : List Byte) : (ecbDec rk C).length ≤ C.length := by
  refine Nat.le_trans (length_pkcs7Unpad_le _) ?_
  rw [length_flatMap_const (length_sm4Dec rk), length_blocks16]
  omega

theorem length_cbcDec_le (rk : Vector Word 32) (iv C : List Byte) : (cbcDec rk iv C).length ≤ C.length := by
  refine Nat.le_trans (length_pkcs7Unpad_le _) (Nat.le_trans (length_cbcDecLoop _ _ _) ?_)
  rw [length_blocks16]
  omega

/-! The sequencer's loop. -/

/-- What the blocks of a loop read and write: the round keys, CHAIN and RES. -/
structure Datapath.Agrees (d e : Datapath) : Prop where
  rks : d.rks = e.rks
  chain : d.chain = e.chain
  res : d.res = e.res

/-- The loop is a fold over the blocks themselves: the block index is not read. -/
theorem Datapath.overBlocks_agrees {f : List Byte → Datapath → Datapath}
    (hf : ∀ B d e, Datapath.Agrees d e → Datapath.Agrees (f B d) (f B e))
    (S : List Byte) (d : Datapath) (hnb : d.nb = S.length / 16) :
    Datapath.Agrees (d.overBlocks f S) ((blocks16 S).foldl (fun d B => f B d) d) := by
  have key : ∀ (bs : List Nat) (d e : Datapath), Datapath.Agrees d e →
      Datapath.Agrees (bs.foldl (fun d b => f (blockOf 16 S b) { d with b := b }) d)
        ((bs.map (blockOf 16 S)).foldl (fun d B => f B d) e) := by
    intro bs
    induction bs with
    | nil => intro d e h; exact h
    | cons b bs ih => intro d e h; exact ih _ _ (hf _ _ _ ⟨h.rks, h.chain, h.res⟩)
  rw [Datapath.overBlocks, hnb, blocks16]
  exact key _ d d ⟨rfl, rfl, rfl⟩

theorem Datapath.ecbEncBlock_agrees (B : List Byte) (d e : Datapath) (h : Datapath.Agrees d e) :
    Datapath.Agrees (d.ecbEncBlock B) (e.ecbEncBlock B) := by
  constructor <;> simp only [Datapath.ecbEncBlock, Datapath.block, h.rks, h.chain, h.res]

theorem Datapath.ecbDecBlock_agrees (B : List Byte) (d e : Datapath) (h : Datapath.Agrees d e) :
    Datapath.Agrees (d.ecbDecBlock B) (e.ecbDecBlock B) := by
  constructor <;> simp only [Datapath.ecbDecBlock, Datapath.block, h.rks, h.chain, h.res]

theorem Datapath.cbcEncBlock_agrees (B : List Byte) (d e : Datapath) (h : Datapath.Agrees d e) :
    Datapath.Agrees (d.cbcEncBlock B) (e.cbcEncBlock B) := by
  constructor <;> simp only [Datapath.cbcEncBlock, Datapath.block, h.rks, h.chain, h.res]

theorem Datapath.cbcDecBlock_agrees (B : List Byte) (d e : Datapath) (h : Datapath.Agrees d e) :
    Datapath.Agrees (d.cbcDecBlock B) (e.cbcDecBlock B) := by
  constructor <;> simp only [Datapath.cbcDecBlock, Datapath.block, h.rks, h.chain, h.res]

/-! The blocks folded: RES is the mode function's string and RKS is kept. -/

theorem fold_ecbEncBlock (Bs : List (List Byte)) (d : Datapath) :
    (Bs.foldl (fun d B => d.ecbEncBlock B) d).rks = d.rks ∧
      (Bs.foldl (fun d B => d.ecbEncBlock B) d).res = d.res ++ Bs.flatMap (sm4Enc d.rks) := by
  induction Bs generalizing d with
  | nil => simp
  | cons B Bs ih =>
    have h1 : (d.ecbEncBlock B).rks = d.rks := by simp only [Datapath.ecbEncBlock, Datapath.block]
    have h2 : (d.ecbEncBlock B).res = d.res ++ sm4Enc d.rks B := by
      simp only [Datapath.ecbEncBlock, Datapath.block]; rfl
    simp only [List.foldl_cons, ih, h1, h2, List.flatMap_cons, List.append_assoc, and_self]

theorem fold_ecbDecBlock (Bs : List (List Byte)) (d : Datapath) :
    (Bs.foldl (fun d B => d.ecbDecBlock B) d).rks = d.rks ∧
      (Bs.foldl (fun d B => d.ecbDecBlock B) d).res = d.res ++ Bs.flatMap (sm4Dec d.rks) := by
  induction Bs generalizing d with
  | nil => simp
  | cons B Bs ih =>
    have h1 : (d.ecbDecBlock B).rks = d.rks := by simp only [Datapath.ecbDecBlock, Datapath.block]
    have h2 : (d.ecbDecBlock B).res = d.res ++ sm4Dec d.rks B := by
      simp only [Datapath.ecbDecBlock, Datapath.block]; rfl
    simp only [List.foldl_cons, ih, h1, h2, List.flatMap_cons, List.append_assoc, and_self]

theorem fold_cbcEncBlock (Bs : List (List Byte)) (d : Datapath) :
    (Bs.foldl (fun d B => d.cbcEncBlock B) d).rks = d.rks ∧
      (Bs.foldl (fun d B => d.cbcEncBlock B) d).res = d.res ++ cbcEncLoop d.rks d.chain.toList Bs := by
  induction Bs generalizing d with
  | nil => simp [cbcEncLoop]
  | cons B Bs ih =>
    have h1 : (d.cbcEncBlock B).rks = d.rks := by simp only [Datapath.cbcEncBlock, Datapath.block]
    have h2 : (d.cbcEncBlock B).res = d.res ++ sm4Enc d.rks (xorBytes B d.chain.toList) := by
      simp only [Datapath.cbcEncBlock, Datapath.block]; rfl
    have h3 : (d.cbcEncBlock B).chain.toList = sm4Enc d.rks (xorBytes B d.chain.toList) := by
      have : (d.cbcEncBlock B).chain = regFile 16 (sm4Enc d.rks (xorBytes B d.chain.toList)) := by
        simp only [Datapath.cbcEncBlock, Datapath.block]; rfl
      rw [this]; exact toList_regFile _ (length_sm4Enc _ _)
    simp only [List.foldl_cons, ih, h1, h2, h3, cbcEncLoop, List.append_assoc, and_self]

theorem fold_cbcDecBlock (Bs : List (List Byte)) (hB : ∀ B ∈ Bs, B.length = 16) (d : Datapath) :
    (Bs.foldl (fun d B => d.cbcDecBlock B) d).rks = d.rks ∧
      (Bs.foldl (fun d B => d.cbcDecBlock B) d).res = d.res ++ cbcDecLoop d.rks d.chain.toList Bs := by
  induction Bs generalizing d with
  | nil => simp [cbcDecLoop]
  | cons B Bs ih =>
    have h1 : (d.cbcDecBlock B).rks = d.rks := by simp only [Datapath.cbcDecBlock, Datapath.block]
    have h2 : (d.cbcDecBlock B).res = d.res ++ xorBytes (sm4Dec d.rks B) d.chain.toList := by
      simp only [Datapath.cbcDecBlock, Datapath.block]; rfl
    have h3 : (d.cbcDecBlock B).chain.toList = B := by
      have : (d.cbcDecBlock B).chain = regFile 16 B := by simp only [Datapath.cbcDecBlock, Datapath.block]
      rw [this]; exact toList_regFile _ (hB B (by simp))
    simp only [List.foldl_cons, ih (fun B h => hB B (by simp [h])), h1, h2, h3, cbcDecLoop, List.append_assoc, and_self]

/-! The registers of a mode command hold the mode function's string and the round keys. -/

theorem Datapath.runMode_ecbEnc (key S : List Byte) (d : Datapath) :
    (d.runMode Datapath.ecbEncBlock key S).rks = sm4Keyexp key ∧
      (d.runMode Datapath.ecbEncBlock key S).res = (blocks16 S).flatMap (sm4Enc (sm4Keyexp key)) := by
  have h := Datapath.overBlocks_agrees Datapath.ecbEncBlock_agrees S (d.modeStart key (S.length / 16)) rfl
  have h2 := fold_ecbEncBlock (blocks16 S) (d.modeStart key (S.length / 16))
  exact ⟨h.rks.trans h2.1, h.res.trans h2.2⟩

theorem Datapath.runMode_ecbDec (key S : List Byte) (d : Datapath) :
    (d.runMode Datapath.ecbDecBlock key S).rks = sm4Keyexp key ∧
      (d.runMode Datapath.ecbDecBlock key S).res = (blocks16 S).flatMap (sm4Dec (sm4Keyexp key)) := by
  have h := Datapath.overBlocks_agrees Datapath.ecbDecBlock_agrees S (d.modeStart key (S.length / 16)) rfl
  have h2 := fold_ecbDecBlock (blocks16 S) (d.modeStart key (S.length / 16))
  exact ⟨h.rks.trans h2.1, h.res.trans h2.2⟩

theorem Datapath.runMode_cbcEnc (key iv S : List Byte) (hiv : iv.length = 16) (d : Datapath) :
    ((d.loadIv iv).runMode Datapath.cbcEncBlock key S).rks = sm4Keyexp key ∧
      ((d.loadIv iv).runMode Datapath.cbcEncBlock key S).res = cbcEncLoop (sm4Keyexp key) iv (blocks16 S) := by
  have h := Datapath.overBlocks_agrees Datapath.cbcEncBlock_agrees S
    ((d.loadIv iv).modeStart key (S.length / 16)) rfl
  have h2 := fold_cbcEncBlock (blocks16 S) ((d.loadIv iv).modeStart key (S.length / 16))
  have hc : ((d.loadIv iv).modeStart key (S.length / 16)).chain.toList = iv := toList_regFile iv hiv
  rw [hc] at h2
  exact ⟨h.rks.trans h2.1, h.res.trans h2.2⟩

theorem Datapath.runMode_cbcDec (key iv S : List Byte) (hiv : iv.length = 16) (d : Datapath) :
    ((d.loadIv iv).runMode Datapath.cbcDecBlock key S).rks = sm4Keyexp key ∧
      ((d.loadIv iv).runMode Datapath.cbcDecBlock key S).res = cbcDecLoop (sm4Keyexp key) iv (blocks16 S) := by
  have h := Datapath.overBlocks_agrees Datapath.cbcDecBlock_agrees S
    ((d.loadIv iv).modeStart key (S.length / 16)) rfl
  have h2 := fold_cbcDecBlock (blocks16 S) (fun B hB => length_of_mem_blocks16 hB)
    ((d.loadIv iv).modeStart key (S.length / 16))
  have hc : ((d.loadIv iv).modeStart key (S.length / 16)).chain.toList = iv := toList_regFile iv hiv
  rw [hc] at h2
  exact ⟨h.rks.trans h2.1, h.res.trans h2.2⟩

end Sys2Proof.Machine
end

