-- ==== Sys2Proof/Laws/Sm3.lean ====
section
/-! SUPPORT. SM3: the sizes of its strings, and the engine's registers hold the values of the functions. -/

namespace Sys2Proof.Machine

@[simp] theorem length_digestBytes (v : Vector Word 8) : (digestBytes v).length = 32 := by
  simp [digestBytes, List.length_flatMap]

@[simp] theorem length_sm3 (M : List Byte) : (sm3 M).length = 32 := by simp [sm3]

theorem length_sm3Pad (M : List Byte) :
    (sm3Pad M).length = M.length + 1 + (119 - M.length % 64) % 64 + 8 := by
  simp [sm3Pad]; omega

theorem length_sm3W (B : List Byte) : (sm3W B).length = 68 := by
  have h : ∀ (js : List Nat) (w : List Word),
      (js.foldl (fun w j => w ++ [sm3NextW w j]) w).length = w.length + js.length := by
    intro js
    induction js with
    | nil => intro w; rfl
    | cons j js ih => intro w; simp only [List.foldl_cons, ih, List.length_append, List.length_cons, List.length_nil]; omega
  simp [sm3W, h, sm3LoadW]

@[simp] theorem length_sm3W1 (w : List Word) : (sm3W1 w).length = 64 := by simp [sm3W1]

/-! The registers. -/

@[simp] theorem Datapath.vs_sm3Block (B : List Byte) (d : Datapath) : (d.sm3Block B).vs = sm3CF d.vs B := rfl

@[simp] theorem Datapath.pm_sm3Block (B : List Byte) (d : Datapath) : (d.sm3Block B).pm = d.pm := by
  cases d; rfl

@[simp] theorem Datapath.vs_sm3Compress (v : Vector Word 8) (B : List Byte) (d : Datapath) :
    (d.sm3Compress v B).vs = sm3CF v B := rfl

/-- SM3_HASH through the registers leaves the final chaining value of R151 in VS. -/
@[simp] theorem Datapath.vs_sm3Hash (M : List Byte) (d : Datapath) : (d.sm3Hash M).vs = sm3Words M := by
  have key : ∀ (bs : List Nat) (d : Datapath), d.pm = sm3Pad M →
      (bs.foldl (fun d b => ({ d with blk := b } : Datapath).sm3Block (blockOf 64 d.pm b)) d).vs =
        bs.foldl (fun vs b => sm3CF vs (blockOf 64 (sm3Pad M) b)) d.vs := by
    intro bs
    induction bs with
    | nil => intro d _; rfl
    | cons b bs ih =>
      intro d hd
      rw [List.foldl_cons, List.foldl_cons, ih _ (by rw [Datapath.pm_sm3Block]; exact hd), Datapath.vs_sm3Block, hd]
  exact key _ _ rfl

/-- The words of a chaining value, read back from its serialisation. -/
theorem be32_digestBytes (v : Vector Word 8) (k : Nat) (hk : k < 8) : be32 (digestBytes v) (4 * k) = v[k] := by
  have h : ∀ (l : List Word) (k : Nat) (h : k < l.length), be32 (l.flatMap bytes32) (4 * k) = l[k] := by
    intro l
    induction l with
    | nil => intro k h; simp at h
    | cons x l ih =>
      intro k h
      cases k with
      | zero =>
        rw [List.flatMap_cons, Nat.mul_zero, be32_append_left _ _ _ (by simp), be32_bytes32]
        rfl
      | succ k =>
        have := be32_append (bytes32 x) (l.flatMap bytes32) (4 * k)
        rw [List.flatMap_cons, show 4 * (k + 1) = (bytes32 x).length + 4 * k by simp; omega, this]
        exact ih k (by simpa using h)
  rw [digestBytes, h v.toList k (by simpa using hk), Vector.getElem_toList]

end Sys2Proof.Machine
end

