-- ==== Sys2Proof/Laws/Commands.lean ====
section
/-! SUPPORT. What a command can do, said once: every command is its check row and its outputs, so it always answers a
next state, which is the error outcome of the first failing check or the commit of its outputs. -/

namespace Sys2Proof.Machine

/-- The check row of each command (60_exceptions.md R283), IllegalCommand apart. -/
def checksOf : Instr → State → List (Bool × CmdError)
  | .sm3Hash, s => [(srcTooLong s, .sourceLengthOutOfRange)]
  | .sm3Init, _ => []
  | .sm3Compress, s => [(srcTooLong s, .sourceLengthOutOfRange), (blockLenBad 64 s, .invalidBlockLength)]
  | .sm4Keyexp, s => [(keyLenBad s, .invalidKeyLength)]
  | .sm4EncBlock, s => blockChecks s
  | .sm4DecBlock, s => blockChecks s
  | .ecbEnc, s => [(srcTooLong s, .sourceLengthOutOfRange), (keyLenBad s, .invalidKeyLength)]
  | .ecbDec, s => [(srcTooLong s, .sourceLengthOutOfRange), (keyLenBad s, .invalidKeyLength),
      (cipherLenBad s, .invalidCiphertextLength)]
  | .cbcEnc, s => [(srcTooLong s, .sourceLengthOutOfRange), (keyLenBad s, .invalidKeyLength),
      (ivLenBad s, .invalidIvLength)]
  | .cbcDec, s => [(srcTooLong s, .sourceLengthOutOfRange), (keyLenBad s, .invalidKeyLength),
      (ivLenBad s, .invalidIvLength), (cipherLenBad s, .invalidCiphertextLength)]
  | .pkcs7Pad, s => [(srcTooLong s, .sourceLengthOutOfRange)]
  | .pkcs7Unpad, s => [(srcTooLong s, .sourceLengthOutOfRange)]

/-- The outputs of each command by the functions of its rule, the hidden registers apart. -/
def outputsOf : Instr → State → Outputs
  | .sm3Hash, s => chainOutputs (sm3Words s.srcBytes)
  | .sm3Init, _ => { dst := [], v := some sm3Iv, rk := none }
  | .sm3Compress, s => chainOutputs (sm3CF s.snap.v (s.memRead .src 0 64))
  | .sm4Keyexp, s => { dst := [], v := none, rk := some (sm4Keyexp s.keyBytes) }
  | .sm4EncBlock, s => { dst := sm4Enc s.snap.rk (s.memRead .src 0 16), v := none, rk := none }
  | .sm4DecBlock, s => { dst := sm4Dec s.snap.rk (s.memRead .src 0 16), v := none, rk := none }
  | .ecbEnc, s =>
    { dst := ecbEnc (sm4Keyexp s.keyBytes) s.srcBytes, v := none, rk := some (sm4Keyexp s.keyBytes) }
  | .ecbDec, s =>
    { dst := ecbDec (sm4Keyexp s.keyBytes) s.srcBytes, v := none, rk := some (sm4Keyexp s.keyBytes) }
  | .cbcEnc, s =>
    { dst := cbcEnc (sm4Keyexp s.keyBytes) s.ivBytes s.srcBytes, v := none, rk := some (sm4Keyexp s.keyBytes) }
  | .cbcDec, s =>
    { dst := cbcDec (sm4Keyexp s.keyBytes) s.ivBytes s.srcBytes, v := none, rk := some (sm4Keyexp s.keyBytes) }
  | .pkcs7Pad, s => { dst := pkcs7Pad s.srcBytes, v := none, rk := none }
  | .pkcs7Unpad, s => { dst := pkcs7Unpad s.srcBytes, v := none, rk := none }

/-- Every command is its check row and its outputs. -/
theorem exec_eq (i : Instr) (s : State) : exec i s = s.runChecked (checksOf i s) (outputsOf i s) := by
  have hiv : s.ivBytes.length = 16 := State.length_memRead _ _ _ _
  cases i with
  | sm3Hash => simp only [exec, execSm3Hash, Datapath.vs_sm3Hash, checksOf, outputsOf]
  | sm3Init => rfl
  | sm3Compress => simp only [exec, execSm3Compress, Datapath.vs_sm3Compress, checksOf, outputsOf]
  | sm4Keyexp => simp only [exec, execSm4Keyexp, Datapath.rks_keyExp, checksOf, outputsOf]
  | sm4EncBlock => simp only [exec, execSm4EncBlock, Datapath.x_block, checksOf, outputsOf, sm4Enc]
  | sm4DecBlock => simp only [exec, execSm4DecBlock, Datapath.x_block, checksOf, outputsOf, sm4Dec]
  | ecbEnc =>
    have h := Datapath.runMode_ecbEnc s.keyBytes (pkcs7Pad s.srcBytes) s.dp
    simp only [exec, execEcbEnc, modeOutputs, h.1, h.2, checksOf, outputsOf, ecbEnc]
  | ecbDec =>
    have h := Datapath.runMode_ecbDec s.keyBytes s.srcBytes s.dp
    simp only [exec, execEcbDec, modeOutputs, Datapath.unpadRes, h.1, h.2, checksOf, outputsOf, ecbDec]
  | cbcEnc =>
    have h := Datapath.runMode_cbcEnc s.keyBytes s.ivBytes (pkcs7Pad s.srcBytes) hiv s.dp
    simp only [exec, execCbcEnc, modeOutputs, h.1, h.2, checksOf, outputsOf, cbcEnc]
  | cbcDec =>
    have h := Datapath.runMode_cbcDec s.keyBytes s.ivBytes s.srcBytes hiv s.dp
    simp only [exec, execCbcDec, modeOutputs, Datapath.unpadRes, h.1, h.2, checksOf, outputsOf, cbcDec]
  | pkcs7Pad => rfl
  | pkcs7Unpad => rfl

/-- A check row in front of an outcome: the error of the first failing check, or the commit. -/
theorem State.runChecked_eq (cs : List (Bool × CmdError)) (o : Outputs) (s : State) :
    s.runChecked cs o = .next ((firstFailing cs).elim (s.commit o) s.raiseError) := by
  unfold State.runChecked
  cases firstFailing cs <;> rfl

/-- Every command answers a next state (60_exceptions.md R288): the error outcome, or the commit. -/
theorem exec_next (i : Instr) (s : State) :
    exec i s = .next ((firstFailing (checksOf i s)).elim (s.commit (outputsOf i s)) s.raiseError) := by
  rw [exec_eq, State.runChecked_eq]

theorem exec_fails {i : Instr} {s : State} {e : CmdError} (h : firstFailing (checksOf i s) = some e) :
    exec i s = .next (s.raiseError e) := by
  rw [exec_next, h]; rfl

theorem exec_succeeds {i : Instr} {s : State} (h : firstFailing (checksOf i s) = none) :
    exec i s = .next (s.commit (outputsOf i s)) := by
  rw [exec_next, h]; rfl

/-- The one inversion lemma of exec. -/
theorem exec_cases {i : Instr} {s t : State} (h : exec i s = .next t) :
    (∃ e, firstFailing (checksOf i s) = some e ∧ t = s.raiseError e) ∨
      (firstFailing (checksOf i s) = none ∧ t = s.commit (outputsOf i s)) := by
  rw [exec_next] at h
  cases hc : firstFailing (checksOf i s) with
  | none => rw [hc] at h; exact .inr ⟨rfl, by simpa using h.symm⟩
  | some e => rw [hc] at h; exact .inl ⟨e, rfl, by simpa using h.symm⟩

@[simp] theorem firstFailing_nil : firstFailing [] = none := rfl

@[simp] theorem firstFailing_cons (b : Bool) (e : CmdError) (cs : List (Bool × CmdError)) :
    firstFailing ((b, e) :: cs) = if b then some e else firstFailing cs := by
  cases b <;> rfl

/-- V is among a command's outputs exactly for the SM3 commands (10_state.md R53). -/
theorem outputsOf_v (i : Instr) (s : State) : (outputsOf i s).v.isSome = writesV i := by
  cases i <;> rfl

/-- RK is among a command's outputs exactly for SM4_KEYEXP and the mode commands (10_state.md R53). -/
theorem outputsOf_rk (i : Instr) (s : State) : (outputsOf i s).rk.isSome = writesRk i := by
  cases i <;> rfl

@[simp] theorem State.length_srcBytes (s : State) : s.srcBytes.length = s.srcLen := State.length_memRead _ _ _ _

@[simp] theorem State.length_keyBytes (s : State) : s.keyBytes.length = 16 := State.length_memRead _ _ _ _

@[simp] theorem State.length_ivBytes (s : State) : s.ivBytes.length = 16 := State.length_memRead _ _ _ _

/-- A command that passes its checks writes at most DST_CAP bytes (20_memory.md R91). -/
theorem length_outputsOf_le {i : Instr} {s : State} (h : firstFailing (checksOf i s) = none) :
    (outputsOf i s).dst.length ≤ s.plat.dstCap := by
  have hs : i = .sm3Init ∨ i = .sm4Keyexp ∨ s.srcLen ≤ s.plat.srcCap := by
    cases i <;> simp only [checksOf, blockChecks, firstFailing_cons, srcTooLong] at h <;>
      first | exact .inl rfl | exact .inr (.inl rfl) | (refine .inr (.inr ?_); split at h <;> simp_all)
  have hpad := length_pkcs7Pad s.srcBytes
  have hun := length_pkcs7Unpad_le s.srcBytes
  have he := length_ecbEnc (sm4Keyexp s.keyBytes) s.srcBytes
  have hd := length_ecbDec_le (sm4Keyexp s.keyBytes) s.srcBytes
  have hce := length_cbcEnc (sm4Keyexp s.keyBytes) s.ivBytes s.srcBytes
  have hcd := length_cbcDec_le (sm4Keyexp s.keyBytes) s.ivBytes s.srcBytes
  rw [State.length_srcBytes] at hpad hun he hd hce hcd
  cases i <;> simp only [outputsOf, chainOutputs, Platform.dstCap, length_digestBytes, length_sm4Enc, length_sm4Dec,
    List.length_nil, reduceCtorEq, false_or] at hs ⊢ <;> omega

end Sys2Proof.Machine
end

