-- ==== Sys2Proof/Laws/Host.lean ====
section
/-! SUPPORT. What a host statement can do, said once: it is refused, or it leaves the core alone, or it stores a
register or a buffer byte while idle, or it is an accepted CMD write, or it is RESET. -/

namespace Sys2Proof.Machine

/-! The register map. -/

theorem regAt_outside {k : Nat} (h : 64 ≤ k) : regAt k = none := by
  unfold regAt
  iterate 11 rw [if_neg (by omega)]

theorem regAt_inside {k : Nat} (h : k < 64) : ∃ r, regAt k = some r := by
  unfold regAt
  simp only [if_pos h]
  split_ifs <;> exact ⟨_, rfl⟩

@[simp] theorem regAt_v (k : Fin 8) : regAt (0x08 + k) = some (.v k) := by
  fin_cases k <;> rfl

@[simp] theorem regAt_rk (i : Fin 32) : regAt (0x10 + i) = some (.rk i) := by
  fin_cases i <;> rfl

@[simp] theorem regAt_reserved (k : Fin 16) : regAt (0x30 + k) = some .reserved := by
  fin_cases k <;> rfl

/-! Effects. -/

theorem SameCore.refl (s : State) : SameCore s s :=
  ⟨rfl, rfl, rfl, rfl, rfl, rfl, rfl, rfl, rfl, rfl, rfl, rfl, rfl, rfl, rfl, fun _ => rfl⟩

theorem SameCore.trans {s t u : State} (h : SameCore s t) (k : SameCore t u) : SameCore s u :=
  ⟨k.plat.trans h.plat, k.cmd.trans h.cmd, k.status.trans h.status, k.srclenLo.trans h.srclenLo,
    k.srclenHi.trans h.srclenHi, k.keylen.trans h.keylen, k.ivlen.trans h.ivlen, k.dstlenLo.trans h.dstlenLo,
    k.dstlenHi.trans h.dstlenHi, k.v.trans h.v, k.rk.trans h.rk, k.snap.trans h.snap, k.dp.trans h.dp,
    k.epoch.trans h.epoch, k.sched.trans h.sched, fun sp => (k.bufs sp).trans (h.bufs sp)⟩

theorem State.sameCore_hostAt (p : Nat) (s : State) : SameCore s (s.hostAt p) := by
  constructor <;> first | rfl | (intro sp; cases sp <;> rfl)

theorem State.sameCore_bindName (n : Name) (x : Word) (s : State) : SameCore s (s.bindName n x) := by
  constructor <;> first | rfl | (intro sp; cases sp <;> rfl)

theorem State.sameCore_drawn (s : State) : SameCore s s.draw.2 := by
  constructor <;> first | rfl | (intro sp; cases sp <;> rfl)

theorem State.sameCore_readOr (b : Bool) (x : Word) (s : State) : SameCore s (s.readOr b x).2 := by
  cases b
  · exact SameCore.refl s
  · exact s.sameCore_drawn

/-- A register read leaves the core alone (20_memory.md R92). -/
theorem State.sameCore_readReg (r : Reg) (s : State) : SameCore s (s.readReg r).2 := by
  cases r <;> first | exact SameCore.refl s | exact State.sameCore_readOr _ _ s

/-- A buffer read leaves the core alone (20_memory.md R92). -/
theorem State.sameCore_hostLoad (sp : Space) (off : Nat) (s : State) : SameCore s (s.hostLoad sp off).2 := by
  unfold State.hostLoad
  split
  · exact s.sameCore_drawn
  · exact SameCore.refl s

/-- What one host statement does, when it is not refused. -/
inductive HostEffect (s : State) : State → Prop where
  /-- The core is left alone: a read, a branch, a label, or a write that is ignored. -/
  | same (t : State) (h : SameCore s t) : HostEffect s t
  /-- A register other than CMD is stored, while idle. -/
  | register (r : Reg) (x : Word) (hr : r ≠ .cmd) (hb : s.status.busy = false) : HostEffect s (s.writeRegIdle r x)
  /-- A byte of SRC, KEY or IV within its capacity is stored, while idle. -/
  | byte (sp : Space) (off : Nat) (x : Byte) (hb : s.status.busy = false) (ho : off < s.plat.cap sp) :
      HostEffect s (s.storeByte sp off x)
  /-- A CMD write is accepted, while idle (60_exceptions.md R285). -/
  | accepted (w : Word) (hb : s.status.busy = false) : HostEffect s (s.accept w)
  /-- RESET (70_reset_and_hazards.md R320). -/
  | reset : HostEffect s s.resetCore

theorem State.effect_hostWr {k : Nat} {v : Val} {s t : State} (h : s.hostWr k v = .next t) : HostEffect s t := by
  unfold State.hostWr at h
  split at h
  · cases h
  · cases h
  · next r x _ _ =>
    cases h
    unfold State.writeReg
    cases hb : s.status.busy with
    | true => exact .same _ (SameCore.refl s)
    | false =>
      by_cases hr : r = .cmd
      · subst hr; exact .accepted x hb
      · exact .register r x hr hb

theorem State.effect_hostRd {k : Nat} {n : Name} {s t : State} (h : s.hostRd k n = .next t) : HostEffect s t := by
  unfold State.hostRd at h
  split at h
  · cases h
  · next r _ =>
    cases h
    exact .same _ ((s.sameCore_readReg r).trans (State.sameCore_bindName _ _ _))

/-- The one inversion lemma of a host statement. -/
theorem State.effect_hostExec {st : Stmt} {s t : State} (h : s.hostExec st = .next t) : HostEffect s t := by
  cases st with
  | wr k v => exact State.effect_hostWr h
  | rd k n => exact State.effect_hostRd h
  | wb sp off v =>
    simp only [State.hostExec, State.hostWb] at h
    split at h
    · cases h
    · cases h
      unfold State.hostStore
      cases hb : s.status.busy with
      | true => exact .same _ (SameCore.refl s)
      | false =>
        by_cases ho : off < s.plat.cap sp
        · simp only [Bool.false_eq_true, if_false, if_pos ho]; exact .byte sp off _ hb ho
        · simp only [Bool.false_eq_true, if_false, if_neg ho]; exact .same _ (SameCore.refl s)
  | rb sp off n =>
    cases h
    exact .same _ ((s.sameCore_hostLoad sp off).trans (State.sameCore_bindName _ _ _))
  | busWr addr size v =>
    simp only [State.hostExec, State.hostBusWr] at h
    split at h
    · cases h
    · exact State.effect_hostWr h
  | busRd addr size n =>
    simp only [State.hostExec, State.hostBusRd] at h
    split at h
    · cases h
    · exact State.effect_hostRd h
  | label l => cases h; exact .same _ (SameCore.refl s)
  | bnz n mask l =>
    simp only [State.hostExec, State.hostBnz] at h
    split at h
    · cases h
    · split at h
      · cases h; exact .same _ (SameCore.refl s)
      · split at h
        · cases h
        · cases h; exact .same _ (State.sameCore_hostAt _ s)
  | reset => cases h; exact .reset

end Sys2Proof.Machine
end

