-- ==== Sys2Proof/Laws/PerInstr.lean ====
section
/-! SUPPORT. The encoding of each command: its word has RSVD = 0 (30_encoding.md R111) and the table reads it back. -/

namespace Sys2Proof.Laws.Encoding

/-- The command word of `i` has its reserved field 0 and reads back as `i`. -/
def Statement (i : Instr) : Prop :=
  i.wf = true ∧ rsvdField (encode i) = 0 ∧ decodeTableWord 32 (encode i).toNat = some i

theorem sm3Hash : Statement .sm3Hash := by unfold Statement; decide

theorem sm3Init : Statement .sm3Init := by unfold Statement; decide

theorem sm3Compress : Statement .sm3Compress := by unfold Statement; decide

theorem sm4Keyexp : Statement .sm4Keyexp := by unfold Statement; decide

theorem sm4EncBlock : Statement .sm4EncBlock := by unfold Statement; decide

theorem sm4DecBlock : Statement .sm4DecBlock := by unfold Statement; decide

theorem ecbEnc : Statement .ecbEnc := by unfold Statement; decide

theorem ecbDec : Statement .ecbDec := by unfold Statement; decide

theorem cbcEnc : Statement .cbcEnc := by unfold Statement; decide

theorem cbcDec : Statement .cbcDec := by unfold Statement; decide

theorem pkcs7Pad : Statement .pkcs7Pad := by unfold Statement; decide

theorem pkcs7Unpad : Statement .pkcs7Unpad := by unfold Statement; decide

end Sys2Proof.Laws.Encoding
end

