-- ==== Sys2Proof/Laws/Step.lean ====
section
/-! SUPPORT. What a step can do, said once. -/

namespace Sys2Proof.Machine

/-- The engine moves only while a command runs (70_reset_and_hazards.md R332). -/
theorem State.busy_of_turn {s : State} (h : s.turn = .engine) : s.status.busy = true := by
  unfold State.turn at h
  split at h
  · assumption
  · cases h

@[simp] theorem State.turn_idle {s : State} (h : s.status.busy = false) : s.turn = .host := by
  simp [State.turn, h]

/-- The one inversion lemma of a step: it idles, it is a host statement, it completes a command, or it completes an
illegal word. -/
theorem step_cases {s t : State} (h : step s = .next t) :
    (s.turn = .host ∧ s.takeTurn.hostStmt = none ∧ t = s.takeTurn) ∨
    (∃ st, s.turn = .host ∧ s.takeTurn.hostStmt = some st ∧
      (s.takeTurn.hostAt (s.takeTurn.host.pos + 1)).hostExec st = .next t) ∨
    (∃ i, s.turn = .engine ∧ s.takeTurn.fetched = .command i ∧ exec i s.takeTurn = .next t) ∨
    (∃ why, s.turn = .engine ∧ s.takeTurn.fetched = .illegal why ∧ t = s.takeTurn.raiseError .illegalCommand) := by
  unfold step at h
  split at h
  · next ht =>
    unfold State.hostStep at h
    split at h
    · next hs => cases h; exact .inl ⟨ht, hs, rfl⟩
    · next st hs => exact .inr (.inl ⟨st, ht, hs, h⟩)
  · next ht =>
    unfold State.engineStep at h
    split at h
    · next i hf => exact .inr (.inr (.inl ⟨i, ht, hf, h⟩))
    · next why hf => cases h; exact .inr (.inr (.inr ⟨why, ht, hf, rfl⟩))

end Sys2Proof.Machine
end

