-- ==== Sys2Proof/Tests/Slice0.lean ====
section
/-! SUPPORT. The model's own tests: the well-formedness checks, one word written out for each command, the published
and derived vectors of 95_test_vectors.md, and a witness for every obligation that has hypotheses. Expected values
come from the spec. -/

namespace Sys2Proof.Tests
open Sys2Proof Sys2Proof.Machine

/-- The n bytes of a number, most significant first: a bare hex string of the spec (00_scope.md R9). -/
def hex : Nat → Nat → List Byte
  | 0, _ => []
  | n + 1, v => hex n (v / 256) ++ [BitVec.ofNat 8 v]

/-- The reset state on the smallest platform (SRC_CAP = 64), with no host move before the engine's. -/
def small : State := { State.reset with plat := ⟨64, 0x4000⟩, sched := [] }

/-- `small` with operands loaded, idle. -/
def ready (src key iv : List Byte) (kl il : Word) : State :=
  { small.withSource src with key := Memory.writeBytes [] 0 key, iv := Memory.writeBytes [] 0 iv, keylen := kl, ivlen := il }

/-- `small` after an accepted word, with a SRCLEN, KEYLEN and IVLEN. -/
def running (w : Word) (len : Nat) (kl il : Word) : State :=
  State.accept w { small with srclenLo := BitVec.ofNat 32 len, keylen := kl, ivlen := il }

/-- `running` with round keys loaded. -/
def keyed (w : Word) (len : Nat) : State := State.accept w
  { small with srclenLo := BitVec.ofNat 32 len, status := { Status.reset with done := true, rkv := true } }

/-- STATUS and the result string of a command. -/
def outcome (i : Instr) (s : State) : Option (Word × List Byte) :=
  match s.runCommand i with
  | .next t => some (t.status.word, t.result)
  | .fault _ => none
  | .refused _ => none

/-- STATUS after one step. -/
def statusAfter (s : State) : Option Word :=
  match step s with
  | .next t => some t.status.word
  | .fault _ => none
  | .refused _ => none

def k2 : List Byte := hex 16 0x000102030405060708090a0b0c0d0e0f
def iv2 : List Byte := hex 16 0x101112131415161718191a1b1c1d1e1f
def kstd : List Byte := hex 16 0x0123456789abcdeffedcba9876543210
def hello : List Byte := hex 11 0x48656c6c6f2c20534d3421
def pattern40 : List Byte := (List.replicate 4 (hex 10 0x30313233343536373839)).flatten

/-! ## Well-formedness: an ill-formed term for each check -/

/-- R8: SRC_CAP below 64. -/
theorem test_wf_srcCap_low : Platform.wf ⟨63, 0⟩ = false := by decide

/-- R8: SRC_CAP above 2^61 - 1. -/
theorem test_wf_srcCap_high : Platform.wf ⟨2 ^ 61, 0⟩ = false := by decide

/-- R88: MMIO_BASE not 4-byte aligned. -/
theorem test_wf_mmioBase : Platform.wf ⟨64, 2⟩ = false := by decide

theorem test_wf_platform : Platform.wf ⟨64, 4⟩ = true ∧ Platform.wf ⟨2 ^ 61 - 1, 0⟩ = true := by decide

/-- R84: a partial access; R89: a misaligned one; R41: below and above the map; and the last register. -/
theorem test_wf_bus : busWf ⟨64, 0x4000⟩ 0x4000 2 = false ∧ busWf ⟨64, 0x4000⟩ 0x4001 4 = false ∧
    busWf ⟨64, 0x4000⟩ 0x3FFC 4 = false ∧ busWf ⟨64, 0x4000⟩ 0x4100 4 = false ∧
    busWf ⟨64, 0x4000⟩ 0x40FC 4 = true := by decide

/-- R41: an index outside the map; R117: a label the program does not hold. -/
theorem test_wf_stmt : Stmt.wf ⟨64, 0⟩ (.wr 64 (.imm 0)) = false ∧ Stmt.wf ⟨64, 0⟩ (.rd 64 ⟨0, 0⟩) = false ∧
    Stmt.wf ⟨64, 0⟩ (.busWr 1 4 (.imm 0)) = false ∧ Stmt.wf ⟨64, 0⟩ (.busRd 0 1 ⟨0, 0⟩) = false ∧
    Stmt.labelKnown [] (.bnz ⟨0, 0⟩ 1 7) = false ∧ programWf ⟨64, 0⟩ [.bnz ⟨0, 0⟩ 1 7] = false ∧
    programWf ⟨64, 0⟩ (stmtsRun .sm3Hash 1 ⟨0, 0⟩) = true := by decide

/-- 20_memory.md R86: offsets out of order, repeated, or at the capacity are no buffer. -/
theorem test_wf_memory : Memory.wf 16 [(1, 0), (0, 0)] = false ∧ Memory.wf 16 [(1, 0), (1, 0)] = false ∧
    Memory.wf 16 [(16, 0)] = false ∧ Memory.wf 16 [(0, 0), (15, 0)] = true := by decide

/-! ## Decoding: a word of each command, bit by bit from 30_encoding.md R111 and R112 -/

theorem test_decode_sm3Hash : decode 0b00000000000000000000000000000001 = .command .sm3Hash := by decide

theorem test_decode_sm3Init : decode 0b00000000000000000000000000000010 = .command .sm3Init := by decide

theorem test_decode_sm3Compress : decode 0b00000000000000000000000000000011 = .command .sm3Compress := by decide

theorem test_decode_sm4Keyexp : decode 0b00000000000000000000000000010000 = .command .sm4Keyexp := by decide

theorem test_decode_sm4EncBlock : decode 0b00000000000000000000000000010001 = .command .sm4EncBlock := by decide

theorem test_decode_sm4DecBlock : decode 0b00000000000000000000000000010010 = .command .sm4DecBlock := by decide

theorem test_decode_ecbEnc : decode 0b00000000000000000000000000100000 = .command .ecbEnc := by decide

theorem test_decode_ecbDec : decode 0b00000000000000000000000000100001 = .command .ecbDec := by decide

theorem test_decode_cbcEnc : decode 0b00000000000000000000000000100010 = .command .cbcEnc := by decide

theorem test_decode_cbcDec : decode 0b00000000000000000000000000100011 = .command .cbcDec := by decide

theorem test_decode_pkcs7Pad : decode 0b00000000000000000000000000110000 = .command .pkcs7Pad := by decide

theorem test_decode_pkcs7Unpad : decode 0b00000000000000000000000000110001 = .command .pkcs7Unpad := by decide

/-- V-DEC: the illegal words of the table. -/
theorem test_decode_illegal : decode 0x00000000 = .illegal .opZero ∧ decode 0x00000004 = .illegal .fnUnused ∧
    decode 0x00000013 = .illegal .fnUnused ∧ decode 0x00000024 = .illegal .fnHiNonzero ∧
    decode 0x00000032 = .illegal .fnUnused ∧ decode 0x00000040 = .illegal .unitAbsent ∧
    decode 0x00000101 = .illegal .rsvdNonzero ∧ decode 0xffffffff = .illegal .rsvdNonzero := by decide

/-- The table's numbering, and a number that is no 32-bit word. -/
theorem test_tableWord : decodeTableWord 32 0x22 = some .cbcEnc ∧ decodeTableWord 32 0x24 = none ∧
    decodeTableWord 40 (2 ^ 32 + 1) = none := by decide

/-- STATUS of an illegal word, RKV = 0 (V-DEC). -/
theorem test_step_illegal : statusAfter (small.withFetchWord 32 0x24) = some 0x00000406 := by decide +kernel

/-! ## Functions -/

/-- V-SM3-F. -/
theorem test_sm3_functions :
    sm3FF 0x12345678 0x9abcdef0 0x0fedcba9 15 = 0x87654321 ∧ sm3FF 0x12345678 0x9abcdef0 0x0fedcba9 16 = 0x1abcdef8 ∧
    sm3GG 0x12345678 0x9abcdef0 0x0fedcba9 15 = 0x87654321 ∧ sm3GG 0x12345678 0x9abcdef0 0x0fedcba9 16 = 0x1ffddff1 ∧
    rotl (sm3T 15) 15 = 0x228cbce6 ∧ rotl (sm3T 32) (32 % 32) = 0x7a879d8a ∧ rotl (sm3T 63) (63 % 32) = 0x3d43cec5 ∧
    sm3P0 0x12345678 = 0xd6688234 ∧ sm3P1 0x12345678 = 0x05014549 := by decide +kernel

/-- V-SM4-F. -/
theorem test_sm4_functions :
    sm4Tau 0x12345678 = 0x9ac9da4c ∧ sm4L 0x12345678 = 0xaa4e9357 ∧ sm4LKey 0x12345678 = 0xa4f24e15 ∧
    sm4T 0x12345678 = 0xf32f23e8 ∧ sm4TKey 0x12345678 = 0x87cd2df8 ∧ sm4T 0x80000000 = 0x9767abab ∧
    sbox 0x00 = 0xd6 ∧ sbox 0xff = 0x48 := by decide +kernel

/-! ## The SM3 commands -/

/-- V-SM3-1. -/
theorem test_sm3Hash_abc : outcome .sm3Hash (ready (hex 3 0x616263) [] [] 0 0) =
    some (0x2, hex 32 0x66c7f0f462eeedd9d1f2d46bdc10e4e24167c4875cf2f7a2297da02b8f4ba8e0) := by decide +kernel

/-- V-SM3-2: two blocks, SRCLEN = SRC_CAP = 64. -/
theorem test_sm3Hash_two_blocks : outcome .sm3Hash (ready (List.replicate 16 (hex 4 0x61626364)).flatten [] [] 0 0) =
    some (0x2, hex 32 0xdebe9ff92275b8a138604889c18e5a4d6fdb70e5387e5765293dcba39c0c5732) := by decide +kernel

/-- V-SM3-5. -/
theorem test_sm3Init : outcome .sm3Init { small with v := Vector.replicate 8 0 } = some (0x2, []) := by decide +kernel

/-- V-SM3-4. -/
theorem test_sm3Compress_abc :
    outcome .sm3Compress (ready (hex 4 0x61626380 ++ List.replicate 59 0 ++ [0x18]) [] [] 0 0) =
    some (0x2, hex 32 0x66c7f0f462eeedd9d1f2d46bdc10e4e24167c4875cf2f7a2297da02b8f4ba8e0) := by decide +kernel

/-- V-SM3-7: the range check comes first. -/
theorem test_sm3Compress_errors : statusAfter (running 3 63 0 0) = some 0x00000506 ∧
    statusAfter (running 3 65 0 0) = some 0x00000706 := by decide +kernel

/-! ## The SM4 commands -/

/-- V-SM4-1: RK0, RK1 and RK31 of the standard key. -/
theorem test_sm4Keyexp_std : outcome .sm4Keyexp (ready [] kstd [] 16 0) = some (0xa, []) ∧
    (sm4Keyexp kstd)[0] = 0xf12186f9 ∧ (sm4Keyexp kstd)[1] = 0x41662b61 ∧
    (sm4Keyexp kstd)[31] = 0x9124a012 := by decide +kernel

/-- V-SM4-3: KEYLEN = 15, and an out-of-range SRCLEN does not matter. -/
theorem test_sm4Keyexp_keylen : statusAfter (running 0x10 65 15 0) = some 0x00000106 ∧
    statusAfter (running 0x10 65 16 0) = some 0x0000000a := by decide +kernel

/-- PUB-SM4-1. -/
theorem test_sm4EncBlock_std : outcome .sm4EncBlock
      { ready kstd [] [] 0 0 with rk := sm4Keyexp kstd, status := { Status.reset with done := true, rkv := true } } =
    some (0xa, hex 16 0x681edf34d206965e86b3e94f536e4246) := by decide +kernel

/-- V-SM4-3: the block length is checked before RKV. -/
theorem test_sm4EncBlock_errors : statusAfter (running 0x11 16 0 0) = some 0x00000606 ∧
    statusAfter (running 0x11 17 0 0) = some 0x00000506 := by decide +kernel

/-- V-SM4-1: decryption of 16 zero bytes. -/
theorem test_sm4DecBlock_zero : outcome .sm4DecBlock { ready (List.replicate 16 0) [] [] 0 0 with
      rk := sm4Keyexp kstd, status := { Status.reset with done := true, rkv := true } } =
    some (0xa, hex 16 0xf7d6b57ed4ba6ae1a630fac4505c98a0) := by decide +kernel

/-- V-SM4-3: RKV stays 1. -/
theorem test_sm4DecBlock_error : statusAfter (keyed 0x12 15) = some 0x0000050e := by decide +kernel

/-! ## The mode commands -/

/-- V-ECB-1 and V-ERR-5: ECB ignores IVLEN. -/
theorem test_ecbEnc_hello : outcome .ecbEnc (ready hello k2 [] 16 15) =
    some (0xa, hex 16 0x6cfec99bce6792a2507c92605702bd25) := by decide +kernel

/-- V-ECB-2: the full extra block. -/
theorem test_ecbEnc_aligned : outcome .ecbEnc (ready (List.replicate 32 0x41) k2 [] 16 0) =
    some (0xa, hex 48 0x28795ee8a7d035ba5590a3633e2e518a28795ee8a7d035ba5590a3633e2e518a8fb9ee17ca7647452763db7bdfc4f960) := by
  decide +kernel

/-- V-ECB-5: five bytes stripped although only the last is 05. -/
theorem test_ecbDec_lax : outcome .ecbDec (ready (hex 16 0x7cb8d5acc7e05c20b3b36b04f27de56d) k2 [] 16 0) =
    some (0xa, hex 11 0x00112233445566778899aa) := by decide +kernel

/-- V-ERR-3 and V-ERR-4. -/
theorem test_ecbDec_errors : statusAfter (running 0x21 17 16 16) = some 0x00000306 ∧
    statusAfter (running 0x21 0 16 16) = some 0x00000306 := by decide +kernel

/-- V-CBC-1. -/
theorem test_cbcEnc_pattern : outcome .cbcEnc (ready pattern40 k2 iv2 16 16) =
    some (0xa, hex 48 0x4e7d50e85ffb4145b52dd2d83aff7dd9679745bf80d30f80fb6207149816fda78d8293f2205d11874c5964765f77bd50) := by
  decide +kernel

/-- V-ERR-1b and V-ERR-2. -/
theorem test_cbcEnc_errors : statusAfter (running 0x22 11 15 16) = some 0x00000106 ∧
    statusAfter (running 0x22 11 16 15) = some 0x00000206 := by decide +kernel

/-- V-CBC-4: a wrong IV corrupts the first block only. -/
theorem test_cbcDec_wrong_iv : outcome .cbcDec (ready (hex 48
      0x4e7d50e85ffb4145b52dd2d83aff7dd9679745bf80d30f80fb6207149816fda78d8293f2205d11874c5964765f77bd50)
      k2 (List.replicate 16 0) 16 16) =
    some (0xa, hex 16 0x202020202020202020202a2a2e2e2a2a ++
      hex 24 0x363738393031323334353637383930313233343536373839) := by decide +kernel

/-- V-ERR-6 to V-ERR-8: the priority of the checks. -/
theorem test_cbcDec_priority : statusAfter (running 0x23 17 15 15) = some 0x00000106 ∧
    statusAfter (running 0x23 17 16 15) = some 0x00000206 ∧ statusAfter (running 0x23 80 15 15) = some 0x00000706 ∧
    statusAfter (running 0x23 17 16 16) = some 0x00000306 := by decide +kernel

/-! ## The padding commands -/

/-- R235's example, and V-PAD-1 at 16. -/
theorem test_pkcs7Pad : outcome .pkcs7Pad (ready hello [] [] 0 0) =
      some (0x2, hex 16 0x48656c6c6f2c20534d34210505050505) ∧
    (outcome .pkcs7Pad (ready (List.replicate 16 0xaa) [] [] 0 0)).map (fun r => r.2) =
      some (List.replicate 16 0xaa ++ List.replicate 16 0x10) := by decide +kernel

/-- V-ERR-9 and V-ERR-10. -/
theorem test_pkcs7Pad_range : statusAfter (running 0x30 65 0 0) = some 0x00000706 ∧
    statusAfter (running 0x30 64 0 0) = some 0x00000002 := by decide +kernel

/-- V-PAD-2: lax cases and unchanged ones. -/
theorem test_pkcs7Unpad_cases : pkcs7Unpad [0xaa, 0xbb, 0xcc, 0x03] = [0xaa] ∧ pkcs7Unpad [0xaa, 0x00] = [0xaa, 0x00] ∧
    pkcs7Unpad [0x10] = [0x10] ∧ pkcs7Unpad (List.replicate 15 0xaa ++ [0x10]) = [] ∧
    pkcs7Unpad [0xaa, 0x11] = [0xaa, 0x11] ∧ pkcs7Unpad [] = [] := by decide +kernel

/-- R236's example, through the command. -/
theorem test_pkcs7Unpad : outcome .pkcs7Unpad (ready (hex 4 0xaabbcc03) [] [] 0 0) = some (0x2, [0xaa]) := by
  decide +kernel

/-! ## The host side -/

/-- V-RST-1: STATUS, V0 and a reserved register after reset. -/
theorem test_reset : (State.reset.readReg .status).1 = 0 ∧ (State.reset.readReg (.v 0)).1 = 0x7380166F ∧
    (State.reset.readReg .reserved).1 = 0 := by decide +kernel

/-- V-STATUS: running, RKV = 0 and RKV = 1. -/
theorem test_status_running : (running 1 0 0 0).status.word = 0x1 ∧ (keyed 0x11 16).status.word = 0x9 := by
  decide +kernel

/-- V-HAZ-1 and V-HAZ-2: host writes while BUSY change nothing. -/
theorem test_busy_write : (running 0x20 0 16 0).writeReg .keylen 15 = running 0x20 0 16 0 ∧
    (running 0x20 0 16 0).writeReg .cmd 1 = running 0x20 0 16 0 := ⟨rfl, rfl⟩

/-- R118: COPYBACK's expansion for one byte. -/
theorem test_copyBack : stmtsCopyBack 1 ⟨5, 0⟩ =
    [.rb .dst 0 ⟨5, 0⟩, .wb .src 0 (.named ⟨5, 0⟩), .wr 2 (.imm 1), .wr 3 (.imm 0)] := by decide

/-! ## Witnesses: for each obligation with hypotheses, a state and operands that meet them -/

/-- A state the host has not finished with: one statement left. -/
def withStmt (st : Stmt) (s : State) : State := { s with host := ⟨[st], 0, []⟩ }

theorem witness_IllegalWordsCompleteWithCodeFour :
    (∃ s : State, s.turn = .engine ∧ decode s.cmd = .illegal .rsvdNonzero) ∧
    (∃ s : State, s.turn = .engine ∧ decode s.cmd = .illegal .opZero) ∧
    (∃ s : State, s.turn = .engine ∧ decode s.cmd = .illegal .unitAbsent) ∧
    (∃ s : State, s.turn = .engine ∧ decode s.cmd = .illegal .fnUnused) ∧
    ∃ s : State, s.turn = .engine ∧ decode s.cmd = .illegal .fnHiNonzero :=
  ⟨⟨running 0x100 0 0 0, by decide, by decide⟩, ⟨running 0 0 0 0, by decide, by decide⟩,
    ⟨running 0x40 0 0 0, by decide, by decide⟩, ⟨running 0x13 0 0 0, by decide, by decide⟩,
    ⟨running 0x24 0 0 0, by decide, by decide⟩⟩

theorem witness_EngineStepRunsFetchedCommand :
    ∃ (s : State) (i : Instr), s.turn = .engine ∧ decode s.cmd = .command i :=
  ⟨running 0x31 0 0 0, .pkcs7Unpad, by decide, by decide⟩

/-- A host statement while idle, one while a command runs, and a host that is done. -/
theorem witness_HostTurnRunsNextStatement :
    (∃ (s : State) (st : Stmt), s.turn = .host ∧ s.status.busy = false ∧ s.host.prog[s.host.pos]? = some st) ∧
    (∃ (s : State) (st : Stmt), s.turn = .host ∧ s.status.busy = true ∧ s.host.prog[s.host.pos]? = some st) ∧
    ∃ s : State, s.turn = .host ∧ s.host.prog[s.host.pos]? = none :=
  ⟨⟨withStmt .reset small, .reset, by decide, by decide, by decide⟩,
    ⟨{ withStmt .reset (running 1 0 0 0) with sched := [.host] }, .reset, by decide, by decide, by decide⟩,
    ⟨small, by decide, by decide⟩⟩

theorem witness_CmdWriteThenEngineRunsCommand :
    ∃ (s : State) (i : Instr), s.status.busy = false ∧ s.sched = [] ∧ s.hostStmt = some (stmtCmd i) :=
  ⟨withStmt (stmtCmd .ecbDec) small, .ecbDec, by decide, by decide, by decide⟩

theorem witness_IdleRegisterReads :
    (∃ s : State, s.status.busy = false ∧ s.status.rkv = true) ∧
    ∃ s : State, s.status.busy = false ∧ s.status.rkv = false :=
  ⟨⟨{ small with status := { Status.reset with done := true, rkv := true } }, by decide, by decide⟩,
    ⟨small, by decide, by decide⟩⟩

/-- The last byte of SRC, KEY, IV and DST. -/
theorem witness_BusyReadsOfOutputsAreDraws :
    ∃ s : State, s.status.busy = true ∧ 63 < s.plat.cap .src ∧ 15 < s.plat.cap .key ∧ 15 < s.plat.cap .iv ∧
      Space.src ≠ .dst ∧ Space.key ≠ .dst ∧ Space.iv ≠ .dst ∧ 79 < s.plat.dstCap :=
  ⟨running 1 0 0 0, by decide, by decide, by decide, by decide, by decide, by decide, by decide, by decide⟩

theorem witness_BusyHostWritesIgnored : ∃ s : State, s.status.busy = true ∧ 0 < 64 ∧ 63 < 64 :=
  ⟨running 1 0 0 0, by decide, by decide, by decide⟩

/-- The boundary indices 0x01, 0x06, 0x07, 0x10 and 0x3F of the ignored writes. -/
theorem witness_IdleRegisterWrites :
    ∃ s : State, s.status.busy = false ∧
      ∀ k ∈ [0x01, 0x06, 0x07, 0x10, 0x3F], k = 0x01 ∨ k = 0x06 ∨ k = 0x07 ∨ (0x10 ≤ k ∧ k < 0x40) :=
  ⟨small, by decide, by decide⟩

theorem witness_AccessOutsideMapRefused : 64 ≤ 0x40 := by decide

/-- The last register, and an access of each ill-formed kind. -/
theorem witness_BusAccessIsWholeAlignedWord :
    63 < 64 ∧ busWf small.plat 0x4004 1 = false ∧ busWf small.plat 0x4002 4 = false ∧
      busWf small.plat 0x3FFC 4 = false ∧ busWf small.plat 0x4100 4 = false := by decide

theorem witness_ReadsPureAndWritesIdempotent : Reg.srclenLo ≠ .cmd ∧ Reg.v 7 ≠ .cmd := by decide

/-- The first offset beyond SRC and KEY, and the DST offsets DSTLEN and DST_CAP - 1. -/
theorem witness_BufferAccessBeyondCapacity :
    Space.src ≠ .dst ∧ small.plat.cap .src ≤ 64 ∧ Space.key ≠ .dst ∧ small.plat.cap .key ≤ 16 ∧
      small.status.busy = false ∧ small.dstlen.toNat ≤ 0 ∧ small.dstlen.toNat ≤ 79 ∧ 79 < small.plat.dstCap := by
  decide

/-- The last byte of SRC, another space, another offset, DST, and a name that has a value. -/
theorem witness_BufferStoreThenLoad :
    (small.status.busy = false ∧ 63 < small.plat.cap .src ∧ Space.src ≠ .dst ∧ (Space.key ≠ .src ∨ 63 ≠ 63) ∧
      (Space.src ≠ .src ∨ 62 ≠ 63) ∧ 79 < small.plat.cap .dst ∧ Space.dst = .dst) ∧
    lookup ⟨1, 0⟩ (small.bindName ⟨1, 0⟩ 0x161).host.env = some 0x161 := by decide

/-- Log entry 15: the low 8 bits of the operand; R85: the byte RB names. -/
theorem test_wb_rb : (small.hostExec (.wb .iv 15 (.imm 0x161))) = .next (small.storeByte .iv 15 0x61) ∧
    ((small.storeByte .iv 15 0x61).hostLoad .iv 15).1 = 0x61 := ⟨rfl, by decide⟩

/-- Log entry 20: the first of two equal labels. -/
theorem test_label_twice : labelPos 1 [.reset, .label 1, .label 1] = some 1 := by decide

theorem witness_CmdWriteIsAccepted : small.status.busy = false := by decide

theorem witness_ErrorCodeFollowsCheckOrder : ∃ (s : State) (why : Illegal), decode s.cmd = .illegal why :=
  ⟨running 0 0 0 0, .opZero, by decide⟩

theorem witness_ErrorOutcomeChangesOnlyStatusAndDstlen :
    ∃ (i : Instr) (s t : State), exec i s = .next t ∧ t.status.err = true :=
  ⟨.sm4Keyexp, small, _, exec_fails (e := .invalidKeyLength) (by decide), rfl⟩

theorem witness_SuccessWritesOnlyTheTable :
    (∃ (i : Instr) (s t : State), s.plat.wf = true ∧ exec i s = .next t ∧ t.status.err = false ∧
      writesV i = false ∧ writesRk i = true ∧ t.dstlen.toNat ≤ 0) ∧
    ∃ (i : Instr) (s t : State), s.plat.wf = true ∧ exec i s = .next t ∧ t.status.err = false ∧
      writesRk i = false :=
  ⟨⟨.sm4Keyexp, running 0x10 0 16 0, _, by decide, exec_succeeds (by decide), rfl, rfl, rfl, Nat.le_refl 0⟩,
    ⟨.sm3Init, small, _, by decide, exec_succeeds (by decide), rfl, rfl⟩⟩

/-- Both sides of SRC_CAP. -/
theorem witness_Sm3HashGivesDigest : (running 1 64 0 0).srcLen ≤ (running 1 64 0 0).plat.srcCap ∧
    (running 1 65 0 0).plat.srcCap < (running 1 65 0 0).srcLen := by decide

theorem witness_Sm3CompressAppliesCf :
    ((running 3 64 0 0).srcLen = 64 ∧ 64 ≤ (running 3 64 0 0).plat.srcCap) ∧
    (running 3 65 0 0).plat.srcCap < (running 3 65 0 0).srcLen ∧
    ((running 3 63 0 0).srcLen ≤ (running 3 63 0 0).plat.srcCap ∧ (running 3 63 0 0).srcLen ≠ 64) := by decide

theorem witness_Sm4KeyexpLoadsSchedule :
    (running 0x10 0 16 0).snap.keylen = 16 ∧ (running 0x10 0 15 0).snap.keylen ≠ 16 := by decide

theorem witness_Sm4EncBlockEncrypts :
    ((keyed 0x11 16).srcLen = 16 ∧ 16 ≤ (keyed 0x11 16).plat.srcCap ∧ (keyed 0x11 16).snap.rkv = true) ∧
    (keyed 0x11 65).plat.srcCap < (keyed 0x11 65).srcLen ∧
    ((keyed 0x11 17).srcLen ≤ (keyed 0x11 17).plat.srcCap ∧ (keyed 0x11 17).srcLen ≠ 16) ∧
    ((running 0x11 16 0 0).srcLen = 16 ∧ 16 ≤ (running 0x11 16 0 0).plat.srcCap ∧
      (running 0x11 16 0 0).snap.rkv = false) := by decide

theorem witness_Sm4DecBlockDecrypts :
    ((keyed 0x12 16).srcLen = 16 ∧ 16 ≤ (keyed 0x12 16).plat.srcCap ∧ (keyed 0x12 16).snap.rkv = true) ∧
    (keyed 0x12 65).plat.srcCap < (keyed 0x12 65).srcLen ∧
    ((keyed 0x12 15).srcLen ≤ (keyed 0x12 15).plat.srcCap ∧ (keyed 0x12 15).srcLen ≠ 16) ∧
    ((running 0x12 16 0 0).srcLen = 16 ∧ 16 ≤ (running 0x12 16 0 0).plat.srcCap ∧
      (running 0x12 16 0 0).snap.rkv = false) := by decide

/-- The hypotheses of the four mode statements share their form: success, then each error in turn. -/
theorem witness_EcbEncEncryptsSource :
    ((running 0x20 64 16 0).srcLen ≤ (running 0x20 64 16 0).plat.srcCap ∧ (running 0x20 64 16 0).snap.keylen = 16) ∧
    (running 0x20 65 16 0).plat.srcCap < (running 0x20 65 16 0).srcLen ∧
    ((running 0x20 64 17 0).srcLen ≤ (running 0x20 64 17 0).plat.srcCap ∧
      (running 0x20 64 17 0).snap.keylen ≠ 16) := by decide

theorem witness_EcbDecDecryptsSource :
    ((running 0x21 64 16 0).srcLen ≤ (running 0x21 64 16 0).plat.srcCap ∧ (running 0x21 64 16 0).snap.keylen = 16 ∧
      0 < (running 0x21 64 16 0).srcLen ∧ (running 0x21 64 16 0).srcLen % 16 = 0) ∧
    (running 0x21 65 16 0).plat.srcCap < (running 0x21 65 16 0).srcLen ∧
    ((running 0x21 64 15 0).srcLen ≤ (running 0x21 64 15 0).plat.srcCap ∧ (running 0x21 64 15 0).snap.keylen ≠ 16) ∧
    ((running 0x21 0 16 0).srcLen ≤ (running 0x21 0 16 0).plat.srcCap ∧ (running 0x21 0 16 0).snap.keylen = 16 ∧
      (running 0x21 0 16 0).srcLen = 0) ∧
    ((running 0x21 17 16 0).srcLen ≤ (running 0x21 17 16 0).plat.srcCap ∧ (running 0x21 17 16 0).snap.keylen = 16 ∧
      (running 0x21 17 16 0).srcLen % 16 ≠ 0) := by decide

theorem witness_CbcEncEncryptsSource :
    ((running 0x22 64 16 16).srcLen ≤ (running 0x22 64 16 16).plat.srcCap ∧
      (running 0x22 64 16 16).snap.keylen = 16 ∧ (running 0x22 64 16 16).snap.ivlen = 16) ∧
    (running 0x22 65 16 16).plat.srcCap < (running 0x22 65 16 16).srcLen ∧
    ((running 0x22 64 15 16).srcLen ≤ (running 0x22 64 15 16).plat.srcCap ∧
      (running 0x22 64 15 16).snap.keylen ≠ 16) ∧
    ((running 0x22 64 16 15).srcLen ≤ (running 0x22 64 16 15).plat.srcCap ∧
      (running 0x22 64 16 15).snap.keylen = 16 ∧ (running 0x22 64 16 15).snap.ivlen ≠ 16) := by decide

theorem witness_CbcDecDecryptsSource :
    ((running 0x23 64 16 16).srcLen ≤ (running 0x23 64 16 16).plat.srcCap ∧
      (running 0x23 64 16 16).snap.keylen = 16 ∧ (running 0x23 64 16 16).snap.ivlen = 16 ∧
      0 < (running 0x23 64 16 16).srcLen ∧ (running 0x23 64 16 16).srcLen % 16 = 0) ∧
    (running 0x23 65 16 16).plat.srcCap < (running 0x23 65 16 16).srcLen ∧
    ((running 0x23 64 15 16).srcLen ≤ (running 0x23 64 15 16).plat.srcCap ∧
      (running 0x23 64 15 16).snap.keylen ≠ 16) ∧
    ((running 0x23 64 16 17).srcLen ≤ (running 0x23 64 16 17).plat.srcCap ∧
      (running 0x23 64 16 17).snap.keylen = 16 ∧ (running 0x23 64 16 17).snap.ivlen ≠ 16) ∧
    ((running 0x23 0 16 16).srcLen ≤ (running 0x23 0 16 16).plat.srcCap ∧
      (running 0x23 0 16 16).snap.keylen = 16 ∧ (running 0x23 0 16 16).snap.ivlen = 16 ∧
      (running 0x23 0 16 16).srcLen = 0) := by decide

theorem witness_Pkcs7PadPadsSource : (running 0x30 64 0 0).srcLen ≤ (running 0x30 64 0 0).plat.srcCap ∧
    (running 0x30 65 0 0).plat.srcCap < (running 0x30 65 0 0).srcLen := by decide

theorem witness_Pkcs7UnpadStripsByLastByte : (running 0x31 0 0 0).srcLen ≤ (running 0x31 0 0 0).plat.srcCap ∧
    (running 0x31 65 0 0).plat.srcCap < (running 0x31 65 0 0).srcLen := by decide

theorem witness_Sm3DigestFrame :
    (∃ t, exec .sm3Hash (running 1 64 0 0) = .next t) ∧ (∃ t, exec .sm3Compress (running 3 64 0 0) = .next t) ∧
      32 ≤ 32 :=
  ⟨⟨_, exec_next _ _⟩, ⟨_, exec_next _ _⟩, Nat.le_refl 32⟩

theorem witness_NoStoreFrame :
    (∃ t, exec .sm3Init small = .next t) ∧ ∃ t, exec .sm4Keyexp (running 0x10 0 16 0) = .next t :=
  ⟨⟨_, exec_next _ _⟩, _, exec_next _ _⟩

theorem witness_Sm4BlockFrame :
    (∃ t, exec .sm4EncBlock (keyed 0x11 16) = .next t) ∧ (∃ t, exec .sm4DecBlock (keyed 0x12 16) = .next t) ∧
      16 ≤ 16 :=
  ⟨⟨_, exec_next _ _⟩, ⟨_, exec_next _ _⟩, Nat.le_refl 16⟩

theorem witness_ModeFrame :
    (∃ t, exec .ecbEnc (running 0x20 64 16 0) = .next t) ∧ (∃ t, exec .ecbDec (running 0x21 64 16 0) = .next t) ∧
      (∃ t, exec .cbcEnc (running 0x22 64 16 16) = .next t) ∧
      (∃ t, exec .cbcDec (running 0x23 64 16 16) = .next t) ∧
      (ecbEnc (sm4Keyexp (running 0x20 64 16 0).keyBytes) (running 0x20 64 16 0).srcBytes).length ≤ 80 :=
  ⟨⟨_, exec_next _ _⟩, ⟨_, exec_next _ _⟩, ⟨_, exec_next _ _⟩, ⟨_, exec_next _ _⟩, by
    rw [length_ecbEnc, State.length_srcBytes]; decide⟩

theorem witness_Pkcs7Frame :
    (∃ t, exec .pkcs7Pad (running 0x30 64 0 0) = .next t) ∧ (∃ t, exec .pkcs7Unpad (running 0x31 64 0 0) = .next t) ∧
      (pkcs7Pad (running 0x30 64 0 0).srcBytes).length ≤ 80 :=
  ⟨⟨_, exec_next _ _⟩, ⟨_, exec_next _ _⟩, by rw [length_pkcs7Pad, State.length_srcBytes]; decide⟩

theorem witness_Sm4BlockInverse : kstd.length = 16 := by decide

theorem witness_ModeFunctionsRoundTrip : k2.length = 16 ∧ iv2.length = 16 := by decide

theorem witness_CbcErrorPropagation :
    iv2.length = 16 ∧ k2.length = 16 ∧ (∀ B ∈ [kstd], B.length = 16) ∧ kstd.length = 16 := by decide

/-- The longest message the smallest SRC holds. -/
theorem witness_StreamingCompressEqualsHash :
    small.plat.wf = true ∧ small.status.busy = false ∧ (List.replicate 64 (0x61 : Byte)).length ≤ small.plat.srcCap := by
  decide

theorem witness_BlockCommandsInvert :
    ∃ (s : State) (P : List Byte), s.plat.wf = true ∧ s.status.busy = false ∧ s.status.rkv = true ∧ P.length = 16 :=
  ⟨{ small with status := { Status.reset with done := true, rkv := true } }, kstd, by decide, by decide, by decide,
    by decide⟩

/-- The longest plaintext whose ciphertext fits back into the smallest SRC. -/
theorem witness_EcbCommandsRoundTrip :
    ∃ (s : State) (P : List Byte), s.plat.wf = true ∧ s.status.busy = false ∧ s.keylen = 16 ∧
      P.length + 16 ≤ s.plat.srcCap :=
  ⟨{ small with keylen := 16 }, List.replicate 48 0x41, by decide, by decide, by decide, by decide⟩

theorem witness_CbcCommandsRoundTrip :
    ∃ (s : State) (P : List Byte), s.plat.wf = true ∧ s.status.busy = false ∧ s.keylen = 16 ∧ s.ivlen = 16 ∧
      P.length + 16 ≤ s.plat.srcCap :=
  ⟨{ small with keylen := 16, ivlen := 16 }, List.replicate 48 0x41, by decide, by decide, by decide, by decide,
    by decide⟩

theorem witness_FailedCommandLeavesNoTrace :
    ∃ (i : Instr) (s t : State), s.status.busy = false ∧ s.runCommand i = .next t ∧ t.status.err = true :=
  ⟨.ecbEnc, small, _, by decide, exec_fails (e := .invalidKeyLength) (by decide), rfl⟩

/-- Each mode command, a success and an error. -/
theorem witness_ModeCommandsIgnoreRoundKeyFile :
    (∃ t, exec .ecbEnc (running 0x20 16 16 0) = .next t ∧ t.status.err = false) ∧
    (∃ t, exec .ecbDec (running 0x21 16 16 0) = .next t ∧ t.status.err = false) ∧
    (∃ t, exec .cbcEnc (running 0x22 16 16 16) = .next t ∧ t.status.err = false) ∧
    (∃ t, exec .cbcDec (running 0x23 16 16 16) = .next t ∧ t.status.err = false) ∧
    ∃ t, exec .cbcDec (running 0x23 16 15 16) = .next t ∧ t.status.err = true :=
  ⟨⟨_, exec_succeeds (by decide), rfl⟩, ⟨_, exec_succeeds (by decide), rfl⟩, ⟨_, exec_succeeds (by decide), rfl⟩,
    ⟨_, exec_succeeds (by decide), rfl⟩, ⟨_, exec_fails (e := .invalidKeyLength) (by decide), rfl⟩⟩

theorem witness_EcbCommandsIgnoreIv :
    (∃ t, exec .ecbEnc (running 0x20 16 16 0) = .next t) ∧ ∃ t, exec .ecbDec (running 0x21 16 16 0) = .next t :=
  ⟨⟨_, exec_next _ _⟩, _, exec_next _ _⟩

theorem witness_OutcomeIndependentOfDatapath : ∃ (i : Instr) (s t : State), exec i s = .next t :=
  ⟨.sm3Hash, running 1 64 0 0, _, exec_next _ _⟩

theorem small_inv : small.Inv where
  plat := by decide
  mem := by intro sp; cases sp <;> decide
  status := by decide
  snapshot := by decide
  noOutput := by decide
  fits := by decide

theorem running_inv : (running 0x22 16 16 16).Inv where
  plat := by decide
  mem := by intro sp; cases sp <;> decide
  status := by decide
  snapshot := by intro; rfl
  noOutput := by decide
  fits := by decide

/-- The step that runs a command accepted in `small`. -/
theorem step_running {i : Instr} {w : Word} (h : decode w = .command i) (len : Nat) (kl il : Word) :
    step (running w len kl il) = exec i (running w len kl il) := by
  have ht : (running w len kl il).turn = .engine := rfl
  have hf : (running w len kl il).fetched = .command i := h
  rw [step, ht]
  show State.engineStep (running w len kl il) = _
  rw [State.engineStep, hf]

/-- A step of the engine with the invariant, and one of the host. -/
theorem witness_StepKeepsInvariant :
    (∃ s t : State, s.Inv ∧ s.turn = .engine ∧ step s = .next t) ∧ ∃ s t : State, s.Inv ∧ step s = .next t ∧
      s.turn = .host :=
  ⟨⟨running 0x22 16 16 16, _, running_inv, by decide, (step_running (by decide) _ _ _).trans (exec_next .cbcEnc _)⟩, small, small, small_inv, rfl, by decide⟩

theorem witness_RkvChangesOnlyByRule :
    (∃ s t : State, step s = .next t ∧ s.status.rkv = false ∧ t.status.rkv = true) ∧
    ∃ s t : State, step s = .next t ∧ s.status.rkv = true ∧ t.status.rkv = false :=
  ⟨⟨running 0x10 0 16 0, _,
      (step_running (i := .sm4Keyexp) (by decide) _ _ _).trans (exec_succeeds (by decide)), rfl, rfl⟩,
    ⟨withStmt .reset { small with status := { Status.reset with done := true, rkv := true } }, _, rfl, rfl, rfl⟩⟩

theorem witness_OutputsChangeOnlyAtCompletion : ∃ s t : State, step s = .next t ∧ t.dstlen ≠ s.dstlen :=
  ⟨running 1 0 0 0, _, (step_running (i := .sm3Hash) (by decide) _ _ _).trans (exec_succeeds (by decide)), by
    rw [State.dstlen_commit]; simp only [outputsOf, chainOutputs, length_digestBytes]; decide⟩

theorem witness_EngineNeverWritesOperands : ∃ s t : State, s.turn = .engine ∧ step s = .next t :=
  ⟨running 0x22 16 16 16, _, by decide, (step_running (by decide) _ _ _).trans (exec_next .cbcEnc _)⟩

/-- A command that runs while the host moves first: a label, then RESET, then a refused statement. -/
theorem witness_RunningCommandCompletes :
    (∃ s : State, s.status.busy = true ∧ s.turn = .host ∧ s.hostStmt = some (.label 0)) ∧
    (∃ s : State, s.status.busy = true ∧ s.turn = .host ∧ s.hostStmt = some .reset) ∧
    ∃ s : State, s.status.busy = true ∧ s.turn = .host ∧ step s = .refused .outsideRegisterMap :=
  ⟨⟨{ withStmt (.label 0) (running 1 0 0 0) with sched := [.host] }, by decide, by decide, by decide⟩,
    ⟨{ withStmt .reset (running 1 0 0 0) with sched := [.host] }, by decide, by decide, by decide⟩,
    ⟨{ withStmt (.rd 64 ⟨0, 0⟩) (running 1 0 0 0) with sched := [.host] }, by decide, by decide, rfl⟩⟩

/-- A word that decodes to a command, and a table number longer than its word. -/
theorem witness_DecodeEncodeAgree : (∃ w : Word, decode w = .command .cbcDec) ∧ Instr.cbcDec.wf = true ∧
    decodeTableWord 8 0x123 = some .cbcDec := ⟨⟨0x23, by decide⟩, by decide, by decide⟩

end Sys2Proof.Tests
end

section
/-! SUPPORT. Proofs of the statements of 20_memory.md about the host's accesses: the bus addresses of the registers
(R84, R88, R89), and the host's writes while a command runs (R93). -/

namespace Sys2Proof.Machine

/-! ### Bus accesses -/

/-- The map of R88 read both ways: the accesses that have an index are the whole words at `MMIO_BASE + 4*k`. -/
theorem busIndex_eq_ok_iff (p : Platform) (addr size k : Nat) :
    busIndex p addr size = .ok k ↔ k < 64 ∧ size = 4 ∧ addr = p.mmioBase + 4 * k := by
  unfold busIndex
  split
  · simp only [reduceCtorEq, false_iff]; omega
  · split
    · simp only [reduceCtorEq, false_iff]; omega
    · split
      · simp only [reduceCtorEq, false_iff]; omega
      · rw [Except.ok.injEq]; omega

theorem busIndex_register (p : Platform) {k : Nat} (hk : k < 64) : busIndex p (p.mmioBase + 4 * k) 4 = .ok k :=
  (busIndex_eq_ok_iff p _ _ k).mpr ⟨hk, rfl, rfl⟩

theorem busWf_of_busIndex_ok {p : Platform} {addr size k : Nat} (h : busIndex p addr size = .ok k) :
    busWf p addr size = true := by
  obtain ⟨hk, rfl, rfl⟩ := (busIndex_eq_ok_iff p addr size k).mp h
  simp [busWf, hk]

theorem busIndex_refuses_of_not_busWf {p : Platform} {addr size : Nat} (h : busWf p addr size = false) :
    ∃ r, busIndex p addr size = .error r := by
  cases hi : busIndex p addr size with
  | error r => exact ⟨r, rfl⟩
  | ok k => rw [busWf_of_busIndex_ok hi] at h; cases h

theorem State.hostBusWr_of_ok {s : State} {addr size k : Nat} (h : busIndex s.plat addr size = .ok k) (v : Val) :
    s.hostBusWr addr size v = s.hostWr k v := by
  rw [State.hostBusWr, h]

theorem State.hostBusRd_of_ok {s : State} {addr size k : Nat} (h : busIndex s.plat addr size = .ok k) (n : Name) :
    s.hostBusRd addr size n = s.hostRd k n := by
  rw [State.hostBusRd, h]

theorem State.hostBusWr_of_error {s : State} {addr size : Nat} {r : Refusal}
    (h : busIndex s.plat addr size = .error r) (v : Val) : s.hostBusWr addr size v = .refused r := by
  rw [State.hostBusWr, h]

theorem State.hostBusRd_of_error {s : State} {addr size : Nat} {r : Refusal}
    (h : busIndex s.plat addr size = .error r) (n : Name) : s.hostBusRd addr size n = .refused r := by
  rw [State.hostBusRd, h]

/-- Settles O14: a whole-word access at a register's address has that register's index, and an access that is not
well formed has none, whether it writes or reads. -/
theorem busAccessIsWholeAlignedWord : Obligations.BusAccessIsWholeAlignedWord := by
  intro s v n
  constructor
  · intro k hk
    have hi := busIndex_register s.plat hk
    exact ⟨State.hostBusWr_of_ok hi v, State.hostBusRd_of_ok hi n⟩
  · intro addr size hwf
    obtain ⟨r, hr⟩ := busIndex_refuses_of_not_busWf hwf
    exact ⟨⟨r, State.hostBusWr_of_error hr v⟩, r, State.hostBusRd_of_error hr n⟩

/-! ### Writes while a command runs -/

theorem State.writeReg_of_busy {s : State} (hb : s.status.busy = true) (r : Reg) (x : Word) : s.writeReg r x = s :=
  if_pos hb

theorem State.hostStore_of_busy {s : State} (hb : s.status.busy = true) (sp : Space) (off : Nat) (x : Byte) :
    s.hostStore sp off x = s :=
  if_pos hb

/-- A `WR` of a literal is the register write of the register its index names (R31). -/
theorem State.hostWr_imm {k : Nat} {r : Reg} (hr : regAt k = some r) (x : Word) (s : State) :
    s.hostWr k (.imm x) = .next (s.writeReg r x) := by
  rw [State.hostWr, hr]; rfl

/-- A `WB` of a literal is the buffer write of its low byte (R85). -/
theorem State.hostWb_imm (sp : Space) (off : Nat) (x : Word) (s : State) :
    s.hostWb sp off (.imm x) = .next (s.hostStore sp off (x.extractLsb' 0 8)) := rfl

/-- Settles O11: every index of the map names a register, and neither a register write nor a buffer write moves a
busy core. -/
theorem busyHostWritesIgnored : Obligations.BusyHostWritesIgnored := by
  intro s hb
  constructor
  · intro k x hk
    obtain ⟨r, hr⟩ := regAt_inside hk
    calc s.hostExec (.wr k (.imm x)) = .next (s.writeReg r x) := State.hostWr_imm hr x s
      _ = .next s := by rw [State.writeReg_of_busy hb]
  · intro sp off x
    calc s.hostExec (.wb sp off (.imm x)) = .next (s.hostStore sp off (x.extractLsb' 0 8)) :=
        State.hostWb_imm sp off x s
      _ = .next s := by rw [State.hostStore_of_busy hb]

end Sys2Proof.Machine
end

section
/-! SUPPORT. Proof of the statement of 30_encoding.md about the decoder: a word is its two fields (R111), the opcode
bytes that decode to a command are the encoder's (R112), so the command words are the encoder's words (R113). -/

namespace Sys2Proof

/-! ### A word is its RSVD and OP fields (R111) -/

theorem rsvdField_append_opField (w : Word) : rsvdField w ++ opField w = w := by
  have happ : rsvdField w ++ opField w = w.extractLsb' 0 32 :=
    BitVec.extractLsb'_append_extractLsb'_eq_extractLsb' rfl
  rw [happ, BitVec.extractLsb'_eq_self]

theorem word_eq_iff_fields_eq (w w' : Word) : w = w' ↔ rsvdField w = rsvdField w' ∧ opField w = opField w' := by
  constructor
  · rintro rfl
    exact ⟨rfl, rfl⟩
  · rintro ⟨hr, ho⟩
    calc w = rsvdField w ++ opField w := (rsvdField_append_opField w).symm
      _ = rsvdField w' ++ opField w' := by rw [hr, ho]
      _ = w' := rsvdField_append_opField w'

@[simp] theorem rsvdField_encode (i : Instr) : rsvdField (encode i) = 0 := by
  cases i <;> rfl

/-! ### Which words are commands (R113) -/

theorem decodeOp_opField_encode (i : Instr) : decodeOp (opField (encode i)) = .command i := by
  cases i <;> rfl

/-- Each branch of R113's case distinction that answers a command tests for the opcode byte of that command's word. -/
theorem opField_encode_of_decodeOp {op : BitVec 8} {i : Instr} (h : decodeOp op = .command i) :
    op = opField (encode i) := by
  apply BitVec.eq_of_toNat_eq
  unfold decodeOp at h
  split at h <;> cases h <;> assumption

theorem decodeOp_eq_command_iff (op : BitVec 8) (i : Instr) :
    decodeOp op = .command i ↔ op = opField (encode i) := by
  constructor
  · exact opField_encode_of_decodeOp
  · rintro rfl
    exact decodeOp_opField_encode i

theorem decode_eq_command_iff_fields (w : Word) (i : Instr) :
    decode w = .command i ↔ rsvdField w = 0 ∧ decodeOp (opField w) = .command i := by
  unfold decode
  split
  next hr => exact ⟨nofun, fun ⟨h0, _⟩ => absurd h0 hr⟩
  next hr => exact (and_iff_right (not_not.mp hr)).symm

/-- The decoder and the encoder agree on every word and every command (R111 to R113). -/
theorem decode_eq_command_iff (w : Word) (i : Instr) : decode w = .command i ↔ w = encode i := by
  rw [decode_eq_command_iff_fields, decodeOp_eq_command_iff, word_eq_iff_fields_eq, rsvdField_encode]

/-- Settles O1: a word decodes to a command exactly when it is the encoder's word, and the encoder's words are those
of the opcode map. -/
theorem decodeExactlyTwelveWords : Obligations.DecodeExactlyTwelveWords := by
  intro w i
  rw [decode_eq_command_iff]
  cases i <;> rfl

end Sys2Proof
end

section
/-! SUPPORT. Proofs of the statements of 40_sm3.md: what a commit shows (R287) and SM3_INIT (R161), and the form and
the number of blocks of the padded message (R142, R152). -/

namespace Sys2Proof.Machine

/-! ### Success outcomes -/

/-- A commit is the success outcome of its own DST string (R287). -/
theorem State.succeeded_commit (o : Outputs) (s : State) : Succeeded s (s.commit o) o.dst where
  busy := rfl
  done := rfl
  err := rfl
  errcode := rfl
  dstlen := s.dstlen_commit o
  bytes := s.memRead_commit o
  rest a ha := by rw [State.readByte_commit, if_neg (fun h => Nat.not_lt.mpr ha h.2)]

/-- A commit without round keys leaves RKV as it was (R34). -/
theorem State.commit_rkv_of_rk_none {o : Outputs} (h : o.rk = none) (s : State) :
    (s.commit o).status.rkv = s.status.rkv := by
  simp [Status.succeeded, h]

/-- Settles O25: SM3_INIT has no check, so it commits its outputs, which are the IV and the empty string. -/
theorem sm3InitLoadsIv : Obligations.Sm3InitLoadsIv := by
  refine ⟨(decode_eq_command_iff _ _).mpr rfl, fun s => ?_⟩
  have hnext : exec .sm3Init s = .next (s.commit (outputsOf .sm3Init s)) := exec_succeeds firstFailing_nil
  exact ⟨_, hnext, s.succeeded_commit _, rfl, s.dstlen_commit _, rfl, State.commit_rkv_of_rk_none rfl s⟩

/-! ### The padded message -/

/-- The zero bytes of R142 end at offset 56 of block `(n + 8) / 64`: that is the message's last block when 0x80 and
the bit length still fit behind its last bytes, and the next block when they do not. -/
theorem sm3Pad_zeros_end (n : Nat) : n + 1 + (119 - n % 64) % 64 = 64 * ((n + 8) / 64) + 56 := by
  by_cases hfits : n % 64 < 56
  · have hz : (119 - n % 64) % 64 = 55 - n % 64 := by omega
    have hb : (n + 8) / 64 = n / 64 := by omega
    omega
  · have hz : (119 - n % 64) % 64 = 119 - n % 64 := by omega
    have hb : (n + 8) / 64 = n / 64 + 1 := by omega
    omega

/-- The padded message is whole blocks, and R152 counts them. -/
theorem length_sm3Pad_eq_blocks (M : List Byte) : (sm3Pad M).length = 64 * ((M.length + 8) / 64 + 1) := by
  rw [length_sm3Pad, sm3Pad_zeros_end, Nat.mul_succ]

/-- Settles O41: the zeros are those of the model's padding, and the whole string is `(length + 8) / 64 + 1` blocks. -/
theorem sm3PadShape : Obligations.Sm3PadShape := by
  intro M
  refine ⟨(119 - M.length % 64) % 64, Nat.mod_lt _ (by decide), ?_, rfl, ?_, ?_⟩
  · rw [sm3Pad_zeros_end, Nat.mul_add_mod]
  · rw [length_sm3Pad_eq_blocks, Nat.mul_mod_right]
  · rw [length_sm3Pad_eq_blocks, Nat.mul_div_cancel_left _ (by decide)]

end Sys2Proof.Machine
end

section
/-! SUPPORT. Proof of the statement of 41_sm4.md about the block transform (R199): a round undoes itself on the window
read last word first, so the rounds in the opposite order undo the whole transform. -/

namespace Sys2Proof.Machine

/-! ### Rounds on the window read last word first -/

/-- A window's words, last first: the order in which the output block holds them (R197). -/
def winFlip (t : Win) : Win := (t.2.2.2, t.2.2.1, t.2.1, t.1)

/-- A round takes its last three words as they stand and only their xor enters F, so the round with the same word on
the flipped window xors the same value onto the new word and gets the first word back. -/
theorem winStep_winFlip_winStep (F : Word → Word) (t : Win) (c : Word) :
    winStep F (winFlip (winStep F t c)) c = winFlip t := by
  obtain ⟨z0, z1, z2, z3⟩ := t
  have harg : z3 ^^^ z2 ^^^ z1 ^^^ c = z1 ^^^ z2 ^^^ z3 ^^^ c := by ac_rfl
  simp only [winStep, winFlip, harg, BitVec.xor_assoc z0, BitVec.xor_self, BitVec.xor_zero]

/-- The rounds in the opposite order, from the flipped last window, end in the flipped first window. -/
theorem winRun_reverse_winFlip_winRun (F : Word → Word) (cs : List Word) (t : Win) :
    winRun F cs.reverse (winFlip (winRun F cs t)) = winFlip t := by
  induction cs generalizing t with
  | nil => rfl
  | cons c cs ih =>
    calc winRun F (c :: cs).reverse (winFlip (winRun F (c :: cs) t))
        = winStep F (winRun F cs.reverse (winFlip (winRun F cs (winStep F t c)))) c := by
          simp only [winRun, List.reverse_cons, List.foldl_append, List.foldl_cons, List.foldl_nil]
      _ = winStep F (winFlip (winStep F t c)) c := by rw [ih]
      _ = winFlip t := winStep_winFlip_winStep F t c

/-! ### Blocks as windows -/

/-- The output block of a window, loaded as a block, is the flipped window. -/
theorem winOf_winOut (t : Win) : winOf (winOut t) = winFlip t := by
  simp only [winOf, winFlip, Prod.mk.injEq]
  exact ⟨be32_bytes32 t.2.2.2, be32_bytes32 t.2.2.1, be32_bytes32 t.2.1, be32_bytes32 t.1⟩

/-- The flipped window of a block is put out as the block. -/
theorem winOut_winFlip_winOf {P : List Byte} (hP : P.length = 16) : winOut (winFlip (winOf P)) = P :=
  bytes32_be32_block P hP

/-! ### The block transform and the order of its keys (R199) -/

theorem sm4Block_reverse_sm4Block {rk : List Word} {P : List Byte} (hrk : rk.length = 32) (hP : P.length = 16) :
    sm4Block rk.reverse (sm4Block rk P) = P := by
  have hrev : rk.reverse.length = 32 := by rw [List.length_reverse, hrk]
  calc sm4Block rk.reverse (sm4Block rk P)
      = winOut (winRun sm4T rk.reverse (winOf (winOut (winRun sm4T rk (winOf P))))) := by
        rw [sm4Block_eq _ _ hrev, sm4Block_eq _ _ hrk]
    _ = winOut (winFlip (winOf P)) := by rw [winOf_winOut, winRun_reverse_winFlip_winRun]
    _ = P := winOut_winFlip_winOf hP

theorem reverse_decOrder (rk : Vector Word 32) : (decOrder rk).reverse = encOrder rk :=
  List.reverse_reverse rk.toList

/-- Decryption's key order, index by index: `rk'[i] = rk[31 - i]`. -/
theorem decOrder_eq_ofFn (rk : Vector Word 32) :
    decOrder rk = (Vector.ofFn fun i : Fin 32 => rk[31 - i.val]).toList := by
  apply List.ext_getElem
  · simp [decOrder]
  · intro i _ _
    simp [decOrder]

theorem sm4Dec_sm4Enc (rk : Vector Word 32) {P : List Byte} (hP : P.length = 16) :
    sm4Dec rk (sm4Enc rk P) = P :=
  sm4Block_reverse_sm4Block (length_encOrder rk) hP

theorem sm4Enc_sm4Dec (rk : Vector Word 32) {P : List Byte} (hP : P.length = 16) :
    sm4Enc rk (sm4Dec rk P) = P := by
  rw [sm4Enc, ← reverse_decOrder]
  exact sm4Block_reverse_sm4Block (length_decOrder rk) hP

/-- Settles O42: the two directions differ in the order of the round keys only, and the block transform under the
opposite order is its inverse. -/
theorem sm4BlockInverse : Obligations.Sm4BlockInverse := by
  intro rk P hP
  refine ⟨rfl, ?_, sm4Dec_sm4Enc rk hP, sm4Enc_sm4Dec rk hP⟩
  rw [sm4Dec, decOrder_eq_ofFn]

end Sys2Proof.Machine
end

section
/-! SUPPORT. Proof of the statement of 42_pkcs7.md about pad and unpad (R232): what unpad does to a string that ends in
`k` bytes of value `k`, and how much it removes from any string. -/

namespace Sys2Proof.Machine

theorem padLen_pos (n : Nat) : 1 ≤ padLen n := by
  unfold padLen; omega

theorem padLen_le (n : Nat) : padLen n ≤ 16 := Nat.sub_le 16 (n % 16)

/-- The length that unpad reads is the last byte, so it removes `k` bytes of value `k` exactly. -/
theorem pkcs7Unpad_append_replicate (S : List Byte) {k : Nat} (hpos : 1 ≤ k) (hle : k ≤ 16) :
    pkcs7Unpad (S ++ List.replicate k (BitVec.ofNat 8 k)) = S := by
  have hlast : (S ++ List.replicate k (BitVec.ofNat 8 k)).getLast? = some (BitVec.ofNat 8 k) := by
    rw [List.getLast?_append, List.getLast?_replicate, if_neg (by omega), Option.some_or]
  have hval : (BitVec.ofNat 8 k).toNat = k := by
    rw [BitVec.toNat_ofNat, Nat.mod_eq_of_lt (by omega)]
  have hlen : (S ++ List.replicate k (BitVec.ofNat 8 k)).length = S.length + k := by
    rw [List.length_append, List.length_replicate]
  simp only [pkcs7Unpad, hlast, hval, hlen]
  rw [if_pos ⟨hpos, hle, Nat.le_add_left k S.length⟩, Nat.add_sub_cancel, List.take_left]

theorem pkcs7Unpad_pkcs7Pad (S : List Byte) : pkcs7Unpad (pkcs7Pad S) = S :=
  pkcs7Unpad_append_replicate S (padLen_pos S.length) (padLen_le S.length)

/-- Whatever the last byte is, unpad removes at most 16 bytes and takes them from the end. -/
theorem exists_pkcs7Unpad_eq_take (S : List Byte) : ∃ k ≤ 16, pkcs7Unpad S = S.take (S.length - k) := by
  have hkeep : S = S.take (S.length - 0) := S.take_length.symm
  unfold pkcs7Unpad
  split
  · exact ⟨0, Nat.zero_le 16, hkeep⟩
  next n _ =>
    split
    next hn =>
      obtain ⟨_, hle, _⟩ := hn
      exact ⟨n.toNat, hle, rfl⟩
    · exact ⟨0, Nat.zero_le 16, hkeep⟩

theorem length_sub_le_length_pkcs7Unpad (S : List Byte) : S.length - 16 ≤ (pkcs7Unpad S).length := by
  obtain ⟨k, hk, htake⟩ := exists_pkcs7Unpad_eq_take S
  rw [htake, List.length_take]
  omega

theorem exists_pkcs7Unpad_append_eq (S : List Byte) : ∃ U, pkcs7Unpad S ++ U = S := by
  obtain ⟨k, _, htake⟩ := exists_pkcs7Unpad_eq_take S
  exact ⟨S.drop (S.length - k), htake ▸ List.take_append_drop (S.length - k) S⟩

/-- Settles O43: pad appends `padLen` bytes of value `padLen`, which unpad removes, and the two strings of R232's
example are AA followed by one byte 01 and by two bytes 02. -/
theorem pkcs7Laws : Obligations.Pkcs7Laws := by
  refine ⟨length_pkcs7Pad, pkcs7Unpad_pkcs7Pad,
    fun S => ⟨length_sub_le_length_pkcs7Unpad S, exists_pkcs7Unpad_append_eq S⟩, ?_, ?_⟩
  · exact pkcs7Unpad_append_replicate [0xAA] (k := 1) (by decide) (by decide)
  · exact pkcs7Unpad_append_replicate [0xAA] (k := 2) (by decide) (by decide)

end Sys2Proof.Machine
end

section
/-! SUPPORT. Proof of the statement of 60_exceptions.md about the order of the checks (R282, R283): the condition each
check tests, the error code a check row reports, and the STATUS in which every command ends. -/

namespace Sys2Proof.Machine

/-! ### The conditions of R282 -/

@[simp] theorem srcTooLong_iff (s : State) : srcTooLong s = true ↔ s.plat.srcCap < s.snap.srclen.toNat :=
  decide_eq_true_iff

@[simp] theorem keyLenBad_iff (s : State) : keyLenBad s = true ↔ s.snap.keylen ≠ 16 := decide_eq_true_iff

@[simp] theorem ivLenBad_iff (s : State) : ivLenBad s = true ↔ s.snap.ivlen ≠ 16 := decide_eq_true_iff

@[simp] theorem cipherLenBad_iff (s : State) :
    cipherLenBad s = true ↔ s.snap.srclen.toNat = 0 ∨ s.snap.srclen.toNat % 16 ≠ 0 := decide_eq_true_iff

@[simp] theorem blockLenBad_iff (n : Nat) (s : State) : blockLenBad n s = true ↔ s.snap.srclen.toNat ≠ n :=
  decide_eq_true_iff

@[simp] theorem keysNotLoaded_iff (s : State) : keysNotLoaded s = true ↔ s.snap.rkv = false := by
  rw [keysNotLoaded, Bool.not_eq_true']

/-! ### The code of a check row (R283) -/

theorem CmdError.code_ne_zero (e : CmdError) : e.code ≠ 0 := by
  cases e <;> decide

/-- ERRCODE of a check row: the code of the first check that fails, 0 when none does. -/
def rowCode (cs : List (Bool × CmdError)) : BitVec 4 := (firstFailing cs).elim 0 CmdError.code

@[simp] theorem rowCode_nil : rowCode [] = 0 := rfl

@[simp] theorem rowCode_cons (b : Bool) (e : CmdError) (cs : List (Bool × CmdError)) :
    rowCode ((b, e) :: cs) = if b then e.code else rowCode cs := by
  cases b <;> rfl

/-- Every command completes with the code of its check row, and ERR says whether that code is an error's (R286,
R287). -/
theorem exec_completes (i : Instr) (s : State) : ∃ t, exec i s = .next t ∧
    t.status.busy = false ∧ t.status.done = true ∧ t.status.err = decide (t.status.errcode ≠ 0) ∧
    t.status.errcode = rowCode (checksOf i s) := by
  cases hc : firstFailing (checksOf i s) with
  | none =>
    have hcode : rowCode (checksOf i s) = 0 := by rw [rowCode, hc]; rfl
    exact ⟨_, exec_succeeds hc, rfl, rfl, rfl, hcode.symm⟩
  | some e =>
    have hcode : rowCode (checksOf i s) = e.code := by rw [rowCode, hc]; rfl
    have herr : true = decide (e.code ≠ 0) := (decide_eq_true e.code_ne_zero).symm
    exact ⟨_, exec_fails hc, rfl, rfl, herr, hcode.symm⟩

/-- An illegal word takes the error outcome before any other check (R281). -/
theorem State.engineStep_of_illegal {s : State} {why : Illegal} (h : decode s.cmd = .illegal why) :
    s.engineStep = .next (s.raiseError .illegalCommand) := by
  rw [State.engineStep, State.fetched, h]

/-- Settles O21: a command ends with the code of its check row, and row by row that is the chain of conditions in the
order of R283. -/
theorem errorCodeFollowsCheckOrder : Obligations.ErrorCodeFollowsCheckOrder := by
  refine ⟨fun s why h => ⟨_, State.engineStep_of_illegal h, rfl, rfl⟩, fun i s => ?_⟩
  obtain ⟨t, hnext, hbusy, hdone, herr, hcode⟩ := exec_completes i s
  refine ⟨t, hnext, hbusy, hdone, herr, hcode.trans ?_⟩
  cases i <;> simp only [checksOf, blockChecks, rowCode_cons, rowCode_nil, CmdError.code, srcTooLong_iff,
    keyLenBad_iff, ivLenBad_iff, cipherLenBad_iff, blockLenBad_iff, keysNotLoaded_iff]

end Sys2Proof.Machine
end

section
/-! SUPPORT. Proofs of the statements of 30_encoding.md about numbered table words and sample words (R110 to R116). -/

namespace Sys2Proof

theorem commandOf_eq_some_iff (d : Decoded) (i : Instr) : commandOf d = some i ↔ d = .command i := by
  cases d <;> simp [commandOf]

/-- A number of at most 32 bits is a command's word exactly when it is that word's number. -/
theorem decode_ofNat_eq_command_iff {n : Nat} (hn : n < 2 ^ 32) (i : Instr) :
    decode (BitVec.ofNat 32 n) = .command i ↔ n = (encode i).toNat := by
  rw [decode_eq_command_iff, ← BitVec.toNat_inj, BitVec.toNat_ofNat, Nat.mod_eq_of_lt hn]

/-- The table reading accepts exactly the numbers of the command words; a number beyond 32 bits is none of them. -/
theorem decodeTableWord_eq_some_iff (nbits w : Nat) (i : Instr) :
    decodeTableWord nbits w = some i ↔ tableNumber nbits w = (encode i).toNat := by
  unfold decodeTableWord
  split
  · next hlt => rw [commandOf_eq_some_iff, decode_ofNat_eq_command_iff hlt]
  · next hge => exact ⟨nofun, fun heq => absurd (heq ▸ (encode i).isLt) hge⟩

/-- Settles O60: the decoder's commands are the encoder's words, for words and for the numbers of the table. -/
theorem decodeEncodeAgree : Obligations.DecodeEncodeAgree :=
  ⟨fun i _ => (decode_eq_command_iff _ i).mpr rfl, fun w i h => ((decode_eq_command_iff w i).mp h).symm,
    decodeTableWord_eq_some_iff⟩

/-- Settles O2: each sample is a closed word, so the decoder's own evaluation decides its class. -/
theorem sampleWordsDecode : Obligations.SampleWordsDecode := by
  unfold Obligations.SampleWordsDecode
  decide

/-! ### The illegal words (R115) -/

theorem toNat_unitField (w : Word) : (unitField w).toNat = (opField w).toNat / 16 := by
  simp only [unitField, opField, BitVec.extractLsb'_toNat, Nat.shiftRight_eq_div_pow]
  omega

theorem toNat_fnField (w : Word) : (fnField w).toNat = (opField w).toNat % 16 := by
  simp only [fnField, opField, BitVec.extractLsb'_toNat, Nat.shiftRight_eq_div_pow]
  omega

theorem decode_illegal_iff_fields (w : Word) :
    (∃ why, decode w = .illegal why) ↔ rsvdField w ≠ 0 ∨ ∃ why, decodeOp (opField w) = .illegal why := by
  unfold decode
  split
  · next hr => exact ⟨fun _ => .inl hr, fun _ => ⟨_, rfl⟩⟩
  · next hr => exact (or_iff_right hr).symm

/-- R113's case distinction falls through exactly for the bytes outside the map. -/
theorem decodeOp_illegal_iff (op : BitVec 8) :
    (∃ why, decodeOp op = .illegal why) ↔
      op.toNat ∉ [0x01, 0x02, 0x03, 0x10, 0x11, 0x12, 0x20, 0x21, 0x22, 0x23, 0x30, 0x31] := by
  unfold decodeOp
  split <;> simp_all

/-- The bytes outside the map, by their two nibbles. -/
theorem notMem_opcodes_iff (n : Nat) :
    n ∉ [0x01, 0x02, 0x03, 0x10, 0x11, 0x12, 0x20, 0x21, 0x22, 0x23, 0x30, 0x31] ↔
      n = 0 ∨ 4 ≤ n / 16 ∨ (n / 16 = 0 ∧ 4 ≤ n % 16) ∨ (n / 16 = 1 ∧ 3 ≤ n % 16) ∨
        (n / 16 = 3 ∧ 2 ≤ n % 16) ∨ (n / 16 = 2 ∧ 4 ≤ n % 16) := by
  simp only [List.mem_cons, List.not_mem_nil, or_false, not_or]
  omega

/-- The five classes of R115. -/
theorem decode_illegal_iff_classes (w : Word) : (∃ why, decode w = .illegal why) ↔
    (rsvdField w ≠ 0 ∨ opField w = 0 ∨ 4 ≤ (unitField w).toNat ∨
      (unitField w = 0 ∧ 4 ≤ (fnField w).toNat) ∨ (unitField w = 1 ∧ 3 ≤ (fnField w).toNat) ∨
      (unitField w = 3 ∧ 2 ≤ (fnField w).toNat) ∨ (unitField w = 2 ∧ 4 ≤ (fnField w).toNat)) := by
  rw [decode_illegal_iff_fields, decodeOp_illegal_iff, notMem_opcodes_iff]
  simp only [← BitVec.toNat_inj, toNat_unitField, toNat_fnField]
  exact Iff.rfl

end Sys2Proof
end

section
/-! SUPPORT. What every command keeps and writes (R53, R286, R287), read off the two ways a command can end, and the
proofs of the statements that say so. -/

namespace Sys2Proof.Machine

/-! ### The two endings keep the inputs -/

theorem State.keepsInputs_raiseError (e : CmdError) (s : State) : KeepsInputs s (s.raiseError e) :=
  ⟨rfl, rfl, rfl, rfl, rfl, rfl, rfl, rfl, rfl, rfl, fun sp a _ => s.readByte_raiseError e sp a⟩

theorem State.keepsInputs_commit (o : Outputs) (s : State) : KeepsInputs s (s.commit o) :=
  ⟨rfl, rfl, rfl, rfl, rfl, rfl, rfl, rfl, rfl, rfl, fun sp a hsp => by
    rw [State.readByte_commit, if_neg (fun h => hsp h.1)]⟩

theorem exec_keepsInputs {i : Instr} {s t : State} (h : exec i s = .next t) : KeepsInputs s t := by
  obtain ⟨e, _, rfl⟩ | ⟨_, rfl⟩ := exec_cases h
  · exact s.keepsInputs_raiseError e
  · exact s.keepsInputs_commit _

/-! ### What a command writes (R53) -/

theorem outputsOf_v_eq_none {i : Instr} (hw : writesV i = false) (s : State) : (outputsOf i s).v = none :=
  Option.isNone_iff_eq_none.mp (Option.isSome_eq_false_iff.mp (by rw [outputsOf_v, hw]))

theorem outputsOf_rk_eq_none {i : Instr} (hw : writesRk i = false) (s : State) : (outputsOf i s).rk = none :=
  Option.isNone_iff_eq_none.mp (Option.isSome_eq_false_iff.mp (by rw [outputsOf_rk, hw]))

theorem exec_keeps_v {i : Instr} {s t : State} (hw : writesV i = false) (h : exec i s = .next t) : t.v = s.v := by
  obtain ⟨e, _, rfl⟩ | ⟨_, rfl⟩ := exec_cases h
  · rfl
  · rw [State.commit_v, outputsOf_v_eq_none hw, Option.getD_none]

theorem exec_keeps_rk {i : Instr} {s t : State} (hw : writesRk i = false) (h : exec i s = .next t) :
    t.rk = s.rk ∧ t.status.rkv = s.status.rkv := by
  obtain ⟨e, _, rfl⟩ | ⟨_, rfl⟩ := exec_cases h
  · exact ⟨rfl, rfl⟩
  · have hnone := outputsOf_rk_eq_none hw s
    refine ⟨?_, State.commit_rkv_of_rk_none hnone s⟩
    rw [State.commit_rk, hnone, Option.getD_none]

/-- A command writes DST below the length of its output string only. -/
theorem exec_keeps_dst_beyond {i : Instr} {s t : State} (h : exec i s = .next t) {a : Nat}
    (ha : (outputsOf i s).dst.length ≤ a) : t.readByte .dst a = s.readByte .dst a := by
  obtain ⟨e, _, rfl⟩ | ⟨_, rfl⟩ := exec_cases h
  · exact s.readByte_raiseError e .dst a
  · exact (s.succeeded_commit _).rest a ha

/-! ### Errors and successes, told apart by ERR -/

theorem exec_error_cases {i : Instr} {s t : State} (h : exec i s = .next t) (herr : t.status.err = true) :
    ∃ e, t = s.raiseError e := by
  obtain ⟨e, _, rfl⟩ | ⟨_, rfl⟩ := exec_cases h
  · exact ⟨e, rfl⟩
  · cases herr

theorem exec_success_cases {i : Instr} {s t : State} (h : exec i s = .next t) (herr : t.status.err = false) :
    firstFailing (checksOf i s) = none ∧ t = s.commit (outputsOf i s) := by
  obtain ⟨e, _, rfl⟩ | hok := exec_cases h
  · cases herr
  · exact hok

/-- Settles O22: only the error outcome sets ERR, and it writes STATUS and DSTLEN. -/
theorem errorOutcomeChangesOnlyStatusAndDstlen : Obligations.ErrorOutcomeChangesOnlyStatusAndDstlen := by
  intro i s t h herr
  obtain ⟨e, rfl⟩ := exec_error_cases h herr
  exact ⟨rfl, e.code_ne_zero, s.readByte_raiseError e⟩

/-- A committed string that fits DST has its own length in DSTLEN. -/
theorem toNat_dstlen_commit {o : Outputs} (s : State) (ho : o.dst.length < 2 ^ 64) :
    (s.commit o).dstlen.toNat = o.dst.length := by
  rw [State.dstlen_commit, BitVec.toNat_ofNat, Nat.mod_eq_of_lt ho]

/-- Settles O23: a success is the commit of the command's outputs, whose V and RK parts are those of R53's table and
whose string fits DSTLEN. -/
theorem successWritesOnlyTheTable : Obligations.SuccessWritesOnlyTheTable := by
  intro i s t hwf h herr
  obtain ⟨hchecks, rfl⟩ := exec_success_cases h herr
  have hlen : (outputsOf i s).dst.length < 2 ^ 64 :=
    Nat.lt_of_le_of_lt (length_outputsOf_le hchecks) (Platform.dstCap_lt hwf)
  refine ⟨rfl, rfl, rfl, fun hv => exec_keeps_v hv h, fun hrk => exec_keeps_rk hrk h, fun hrk => ?_,
    exec_keepsInputs h, fun a ha => exec_keeps_dst_beyond h ?_⟩
  · rw [State.commit_status, Status.succeeded, outputsOf_rk, hrk, Bool.or_true]
  · rwa [toNat_dstlen_commit s hlen] at ha

/-! ### Frames, command by command -/

/-- Settles O36: the digest is 32 bytes, and RK is not among the outputs. -/
theorem sm3DigestFrame : Obligations.Sm3DigestFrame := by
  intro i s t hi h
  have hrk : writesRk i = false := by obtain rfl | rfl := hi <;> rfl
  have hlen : (outputsOf i s).dst.length = 32 := by obtain rfl | rfl := hi <;> exact length_digestBytes _
  obtain ⟨hkeep, hkeepv⟩ := exec_keeps_rk hrk h
  exact ⟨exec_keepsInputs h, hkeep, hkeepv, fun a ha => exec_keeps_dst_beyond h (hlen ▸ ha)⟩

/-- A command whose output string is empty changes no byte of any buffer. -/
theorem exec_keeps_bytes {i : Instr} {s t : State} (h : exec i s = .next t) (hnil : (outputsOf i s).dst = [])
    (sp : Space) (a : Nat) : t.readByte sp a = s.readByte sp a := by
  by_cases hsp : sp = .dst
  · subst hsp
    exact exec_keeps_dst_beyond h (by rw [hnil]; exact Nat.zero_le a)
  · exact (exec_keepsInputs h).bytes sp a hsp

/-- Settles O37: neither command has an output string. -/
theorem noStoreFrame : Obligations.NoStoreFrame := by
  constructor
  · intro s t h
    obtain ⟨hrk, hrkv⟩ := exec_keeps_rk rfl h
    exact ⟨exec_keepsInputs h, hrk, hrkv, exec_keeps_bytes h rfl⟩
  · intro s t h
    exact ⟨exec_keepsInputs h, exec_keeps_v rfl h, exec_keeps_bytes h rfl⟩

/-- Settles O38: a block is 16 bytes, and neither V nor RK is among the outputs. -/
theorem sm4BlockFrame : Obligations.Sm4BlockFrame := by
  intro i s t hi h
  have hv : writesV i = false := by obtain rfl | rfl := hi <;> rfl
  have hrk : writesRk i = false := by obtain rfl | rfl := hi <;> rfl
  have hlen : (outputsOf i s).dst.length = 16 := by obtain rfl | rfl := hi <;> rfl
  obtain ⟨hkeep, hkeepv⟩ := exec_keeps_rk hrk h
  exact ⟨exec_keepsInputs h, exec_keeps_v hv h, hkeep, hkeepv, fun a ha => exec_keeps_dst_beyond h (hlen ▸ ha)⟩

/-- Settles O39: the output string of a mode command is its mode function's. -/
theorem modeFrame : Obligations.ModeFrame := by
  intro i s t out hi h
  have hv : writesV i = false := by obtain ⟨rfl, _⟩ | ⟨rfl, _⟩ | ⟨rfl, _⟩ | ⟨rfl, _⟩ := hi <;> rfl
  have hout : (outputsOf i s).dst = out := by
    obtain ⟨rfl, rfl⟩ | ⟨rfl, rfl⟩ | ⟨rfl, rfl⟩ | ⟨rfl, rfl⟩ := hi <;> rfl
  exact ⟨exec_keepsInputs h, exec_keeps_v hv h, fun a ha => exec_keeps_dst_beyond h (hout ▸ ha)⟩

/-- Settles O40: the output string of a padding command is the padded or unpadded source. -/
theorem pkcs7Frame : Obligations.Pkcs7Frame := by
  intro i s t out hi h
  have hv : writesV i = false := by obtain ⟨rfl, _⟩ | ⟨rfl, _⟩ := hi <;> rfl
  have hrk : writesRk i = false := by obtain ⟨rfl, _⟩ | ⟨rfl, _⟩ := hi <;> rfl
  have hout : (outputsOf i s).dst = out := by obtain ⟨rfl, rfl⟩ | ⟨rfl, rfl⟩ := hi <;> rfl
  obtain ⟨hkeep, hkeepv⟩ := exec_keeps_rk hrk h
  exact ⟨exec_keepsInputs h, exec_keeps_v hv h, hkeep, hkeepv, fun a ha => exec_keeps_dst_beyond h (hout ▸ ha)⟩

end Sys2Proof.Machine
end

section
/-! SUPPORT. The invariant of every step (10_state.md R34, R50; 20_memory.md R86, R91; 60_exceptions.md R286): each of
the ways a step can go keeps it. -/

namespace Sys2Proof.Machine

/-! ### STATUS values -/

theorem Status.legal_failed (e : CmdError) (st : Status) : (st.failed e.code).legal = true := by
  cases e <;> rfl
/-! ### DSTLEN from its halves -/

theorem State.dstlen_congr {s t : State} (hlo : t.dstlenLo = s.dstlenLo) (hhi : t.dstlenHi = s.dstlenHi) :
    t.dstlen = s.dstlen := by
  rw [State.dstlen, hlo, hhi, State.dstlen]

theorem State.dstlen_of_zero {s : State} (hlo : s.dstlenLo = 0) (hhi : s.dstlenHi = 0) : s.dstlen = 0 := by
  rw [State.dstlen, hlo, hhi]
  rfl

/-! ### States that agree on what the invariant reads -/

theorem SameCore.dstlen {s t : State} (h : SameCore s t) : t.dstlen = s.dstlen :=
  State.dstlen_congr h.dstlenLo h.dstlenHi

theorem SameCore.operands {s t : State} (h : SameCore s t) : t.operands = s.operands := by
  simp only [State.operands, State.srclen, h.srclenHi, h.srclenLo, h.keylen, h.ivlen, h.v, h.rk, h.status]

theorem State.Inv.of_sameCore {s t : State} (h : SameCore s t) (hs : s.Inv) : t.Inv where
  plat := by rw [h.plat]; exact hs.plat
  mem sp := by rw [h.plat, h.bufs]; exact hs.mem sp
  status := by rw [h.status]; exact hs.status
  snapshot hb := by rw [h.snap, h.operands]; rw [h.status] at hb; exact hs.snapshot hb
  noOutput he := by rw [h.dstlen]; rw [h.status] at he; exact hs.noOutput he
  fits := by rw [h.dstlen, h.plat]; exact hs.fits

/-- Nothing in the invariant reads the interleaving. -/
theorem State.Inv.takeTurn {s : State} (hs : s.Inv) : s.takeTurn.Inv := by
  unfold State.takeTurn
  split
  · exact ⟨hs.plat, hs.mem, hs.status, hs.snapshot, hs.noOutput, hs.fits⟩
  · exact hs

/-- While idle the snapshot clause is vacuous, so the invariant asks nothing of the operand registers. -/
theorem State.Inv.of_idle {s t : State} (hs : s.Inv) (hb : s.status.busy = false) (hplat : t.plat = s.plat)
    (hmem : ∀ sp, Memory.wf (s.plat.cap sp) (t.buf sp) = true) (hstatus : t.status = s.status)
    (hdstlen : t.dstlen = s.dstlen) : t.Inv where
  plat := by rw [hplat]; exact hs.plat
  mem sp := by rw [hplat]; exact hmem sp
  status := by rw [hstatus]; exact hs.status
  snapshot hbusy := by rw [hstatus, hb] at hbusy; cases hbusy
  noOutput he := by rw [hdstlen]; rw [hstatus] at he; exact hs.noOutput he
  fits := by rw [hdstlen, hplat]; exact hs.fits

/-! ### A register or a byte stored while idle -/

/-- What a store to a register other than CMD leaves alone, whichever register it is. -/
theorem State.writeRegIdle_keeps {r : Reg} (hr : r ≠ .cmd) (x : Word) (s : State) :
    (s.writeRegIdle r x).plat = s.plat ∧ (s.writeRegIdle r x).status = s.status ∧
      (s.writeRegIdle r x).dstlenLo = s.dstlenLo ∧ (s.writeRegIdle r x).dstlenHi = s.dstlenHi ∧
      (s.writeRegIdle r x).rk = s.rk ∧ (s.writeRegIdle r x).epoch = s.epoch ∧
      ∀ sp, (s.writeRegIdle r x).buf sp = s.buf sp := by
  cases r with
  | cmd => exact absurd rfl hr
  | _ => exact ⟨rfl, rfl, rfl, rfl, rfl, rfl, fun sp => by cases sp <;> rfl⟩

/-- What a byte store leaves alone, whichever buffer it goes to. -/
theorem State.storeByte_keeps (sp : Space) (off : Nat) (x : Byte) (s : State) :
    (s.storeByte sp off x).plat = s.plat ∧ (s.storeByte sp off x).status = s.status ∧
      (s.storeByte sp off x).dstlenLo = s.dstlenLo ∧ (s.storeByte sp off x).dstlenHi = s.dstlenHi ∧
      (s.storeByte sp off x).rk = s.rk ∧ (s.storeByte sp off x).epoch = s.epoch ∧
      (s.storeByte sp off x).dst = s.dst := by
  cases sp <;> exact ⟨rfl, rfl, rfl, rfl, rfl, rfl, rfl⟩

theorem State.Inv.writeRegIdle {s : State} (hs : s.Inv) (hb : s.status.busy = false) {r : Reg} (hr : r ≠ .cmd)
    (x : Word) : (s.writeRegIdle r x).Inv := by
  obtain ⟨hplat, hstatus, hlo, hhi, _, _, hbuf⟩ := s.writeRegIdle_keeps hr x
  refine hs.of_idle hb hplat (fun sp => ?_) hstatus
    (State.dstlen_congr hlo hhi)
  rw [hbuf]
  exact hs.mem sp

theorem State.Inv.storeByte {s : State} (hs : s.Inv) (hb : s.status.busy = false) {sp : Space} {off : Nat}
    (ho : off < s.plat.cap sp) (x : Byte) : (s.storeByte sp off x).Inv := by
  obtain ⟨hplat, hstatus, hlo, hhi, _⟩ := s.storeByte_keeps sp off x
  refine hs.of_idle hb hplat (fun sq => ?_) hstatus
    (State.dstlen_congr hlo hhi)
  rw [State.buf_storeByte]
  split
  · next hsq => rw [hsq.1]; exact Memory.wf_write off x (hs.mem sp) ho
  · exact hs.mem sq

/-! ### Acceptance, RESET and the two endings -/

/-- Acceptance takes the snapshot that the invariant asks for (R285). -/
theorem State.Inv.accept {s : State} (hs : s.Inv) (w : Word) : (s.accept w).Inv where
  plat := hs.plat
  mem sp := by rw [State.buf_accept]; exact hs.mem sp
  status := rfl
  snapshot _ := rfl
  noOutput he := nomatch he
  fits := hs.fits

theorem State.Inv.resetCore {s : State} (hs : s.Inv) : s.resetCore.Inv where
  plat := hs.plat
  mem sp := by cases sp <;> rfl
  status := rfl
  snapshot hb := nomatch hb
  noOutput he := nomatch he
  fits := by rw [State.dstlen_of_zero rfl rfl]; exact Nat.zero_le _

theorem State.Inv.raiseError {s : State} (hs : s.Inv) (e : CmdError) : (s.raiseError e).Inv where
  plat := hs.plat
  mem sp := by rw [State.buf_raiseError]; exact hs.mem sp
  status := s.status.legal_failed e
  snapshot hb := nomatch hb
  noOutput _ := s.dstlen_raiseError e
  fits := by rw [State.dstlen_raiseError]; exact Nat.zero_le _

/-- A commit keeps the invariant when its string fits DST. -/
theorem State.Inv.commit {s : State} (hs : s.Inv) {o : Outputs} (ho : o.dst.length ≤ s.plat.dstCap) :
    (s.commit o).Inv where
  plat := hs.plat
  mem sp := by
    rw [State.buf_commit]
    split
    · next hsp => subst hsp; exact Memory.wf_writeBytes 0 o.dst (hs.mem .dst) (by rwa [Nat.zero_add])
    · exact hs.mem sp
  status := rfl
  snapshot hb := nomatch hb
  noOutput he := nomatch he
  fits := by
    rw [State.dstlen_commit, BitVec.toNat_ofNat]
    exact Nat.le_trans (Nat.mod_le _ _) ho

/-! ### Every step -/

theorem State.Inv.of_exec {s t : State} (hs : s.Inv) {i : Instr} (h : exec i s = .next t) : t.Inv := by
  obtain ⟨e, _, rfl⟩ | ⟨hchecks, rfl⟩ := exec_cases h
  · exact hs.raiseError e
  · exact hs.commit (length_outputsOf_le hchecks)

theorem State.Inv.of_hostEffect {s t : State} (hs : s.Inv) (h : HostEffect s t) : t.Inv := by
  cases h with
  | same _ hsame => exact hs.of_sameCore hsame
  | register r x hr hb => exact hs.writeRegIdle hb hr x
  | byte sp off x hb ho => exact hs.storeByte hb ho x
  | accepted w _ => exact hs.accept w
  | reset => exact hs.resetCore

/-- Settles O55: a step uses up a turn and then idles, is a host statement, completes a command or completes an illegal
word, and each of these keeps the invariant. -/
theorem stepKeepsInvariant : Obligations.StepKeepsInvariant := by
  intro s t hs h
  have hturn : s.takeTurn.Inv := hs.takeTurn
  obtain ⟨_, _, rfl⟩ | ⟨st, _, _, hexec⟩ | ⟨i, _, _, hexec⟩ | ⟨why, _, _, rfl⟩ := step_cases h
  · exact hturn
  · exact (hturn.of_sameCore (State.sameCore_hostAt _ _)).of_hostEffect (State.effect_hostExec hexec)
  · exact hturn.of_exec hexec
  · exact hturn.raiseError .illegalCommand

/-- Settles O54: the platform of the reset state is in range, and everything else is empty or 0. -/
theorem resetMeetsInvariant : Obligations.ResetMeetsInvariant where
  plat := platform_wf
  mem sp := by cases sp <;> rfl
  status := rfl
  snapshot hb := nomatch hb
  noOutput he := nomatch he
  fits := by rw [State.dstlen_of_zero rfl rfl]; exact Nat.zero_le _

end Sys2Proof.Machine
end

section
/-! SUPPORT. Proofs of the statements about single steps: whose turn it is (70_reset_and_hazards.md R332), what the
engine's step runs (10_state.md R55, 60_exceptions.md R281, R285), and what each step may change (R34, R87, R96). -/

namespace Sys2Proof.Machine

/-! ### Turns -/

theorem absurd_of_false_of_true {b : Bool} {p : Prop} (hf : b = false) (ht : b = true) : p :=
  absurd (hf.symm.trans ht) Bool.false_ne_true

@[simp] theorem State.hostStmt_takeTurn (s : State) : s.takeTurn.hostStmt = s.hostStmt := by
  rw [State.hostStmt, State.takeTurn_host, State.hostStmt]

theorem State.takeTurn_of_idle {s : State} (hb : s.status.busy = false) : s.takeTurn = s := by
  rw [State.takeTurn, hb]
  rfl

theorem State.takeTurn_of_busy {s : State} (hb : s.status.busy = true) :
    s.takeTurn = { s with sched := s.sched.tail } :=
  if_pos hb

theorem step_of_host {s : State} (h : s.turn = .host) : step s = s.takeTurn.hostStep := by
  rw [step, h]

theorem step_of_engine {s : State} (h : s.turn = .engine) : step s = s.takeTurn.engineStep := by
  rw [step, h]

/-- The host moves while a command runs only where the interleaving says so and the host has a statement left. -/
theorem State.turn_host_of_busy {s : State} (hb : s.status.busy = true) (h : s.turn = .host) :
    ∃ rest st, s.sched = .host :: rest ∧ s.hostStmt = some st := by
  unfold State.turn at h
  rw [if_pos hb] at h
  split at h
  · next rest st hsched hstmt => exact ⟨rest, st, hsched, hstmt⟩
  all_goals cases h

theorem State.turn_of_sched_nil {s : State} (hb : s.status.busy = true) (hs : s.sched = []) : s.turn = .engine := by
  rw [State.turn, if_pos hb, hs]

/-! ### The engine's step -/

theorem State.engineStep_of_command {s : State} {i : Instr} (h : decode s.cmd = .command i) :
    s.engineStep = exec i s := by
  rw [State.engineStep, State.fetched, h]

theorem step_of_engine_command {s : State} {i : Instr} (hturn : s.turn = .engine) (h : decode s.cmd = .command i) :
    step s = exec i s.takeTurn := by
  rw [step_of_engine hturn, State.engineStep_of_command (by rwa [State.takeTurn_cmd])]

theorem step_of_engine_illegal {s : State} {why : Illegal} (hturn : s.turn = .engine)
    (h : decode s.cmd = .illegal why) : step s = .next (s.takeTurn.raiseError .illegalCommand) := by
  rw [step_of_engine hturn, State.engineStep_of_illegal (by rwa [State.takeTurn_cmd])]

/-- A running command with no interleaving left is run by the next step as the state stands. -/
theorem step_of_sched_nil {s : State} {i : Instr} (hb : s.status.busy = true) (hs : s.sched = [])
    (h : decode s.cmd = .command i) : step s = exec i s := by
  have htake : s.takeTurn = s := by
    obtain ⟨⟩ := s
    subst hs
    exact State.takeTurn_of_busy hb
  rw [step_of_engine_command (State.turn_of_sched_nil hb hs) h, htake]

/-- The engine's step answers a COMPLETE state, whatever word it fetched (R288). -/
theorem step_of_engine_completes {s : State} (h : s.turn = .engine) :
    ∃ t, step s = .next t ∧ t.status.busy = false ∧ t.status.done = true := by
  cases hd : decode s.cmd with
  | command i =>
    obtain ⟨t, hnext, hbusy, hdone, _⟩ := exec_completes i s.takeTurn
    exact ⟨t, (step_of_engine_command h hd).trans hnext, hbusy, hdone⟩
  | illegal why => exact ⟨_, step_of_engine_illegal h hd, rfl, rfl⟩

/-- Settles O4: the engine reads CMD, which using up a turn does not change. -/
theorem engineStepRunsFetchedCommand : Obligations.EngineStepRunsFetchedCommand := by
  intro s i hturn hd
  rw [step_of_engine_command hturn hd, State.takeTurn_of_busy (State.busy_of_turn hturn)]

theorem tableNumber_encode (i : Instr) : BitVec.ofNat 32 (tableNumber 32 (encode i).toNat) = encode i := by
  rw [tableNumber, Nat.mod_eq_of_lt (encode i).isLt, BitVec.ofNat_toNat, BitVec.setWidth_eq]

/-- Settles O5: the placed word is accepted with an empty interleaving, so the engine runs it next. -/
theorem fetchWordRunsNext : Obligations.FetchWordRunsNext := by
  intro s i
  have hcmd : (s.withFetchWord 32 (encode i).toNat).cmd = encode i := tableNumber_encode i
  refine ⟨step_of_sched_nil rfl rfl ?_, rfl⟩
  rw [hcmd, decode_eq_command_iff]

/-- Settles O6: the host's turn is its next statement; with none left it has the turn only while idle, where nothing is
used up. -/
theorem hostTurnRunsNextStatement : Obligations.HostTurnRunsNextStatement := by
  intro s hturn
  constructor
  · intro st hst
    have hstmt : s.takeTurn.hostStmt = some st := s.hostStmt_takeTurn.trans hst
    rw [step_of_host hturn, State.hostStep, hstmt, State.takeTurn_host]
  · intro hnone
    have hidle : s.status.busy = false := by
      by_contra hb
      obtain ⟨_, st, _, hst⟩ := State.turn_host_of_busy (Bool.of_not_eq_false hb) hturn
      exact absurd (hst.symm.trans hnone) nofun
    have hstmt : s.hostStmt = none := hnone
    rw [step_of_host hturn, State.takeTurn_of_idle hidle, State.hostStep, hstmt]

/-- Settles O7: the write is accepted, and with no interleaving the next step runs the latched word. -/
theorem cmdWriteThenEngineRunsCommand : Obligations.CmdWriteThenEngineRunsCommand := by
  intro s i hb hs hst
  have hstep : step s = .next ((s.hostAt (s.host.pos + 1)).accept (encode i)) := by
    rw [step_of_host (State.turn_idle hb), State.takeTurn_of_idle hb, State.hostStep, hst]
    show State.hostWr 0x00 (.imm (encode i)) _ = _
    rw [State.hostWr_imm rfl, State.writeReg, State.hostAt_status, hb]
    rfl
  refine ⟨_, hstep, rfl, rfl, rfl, step_of_sched_nil rfl hs ?_⟩
  rw [State.accept_cmd, decode_eq_command_iff]

/-- Settles O3: the words outside the map fall in R115's classes, and the engine gives each of them the error outcome
of IllegalCommand. -/
theorem illegalWordsCompleteWithCodeFour : Obligations.IllegalWordsCompleteWithCodeFour := by
  refine ⟨decode_illegal_iff_classes, fun s why hturn hd => ?_⟩
  refine ⟨_, step_of_engine_illegal hturn hd, rfl, rfl, rfl, rfl, ?_, State.dstlen_raiseError _ _,
    State.keepsInputs_raiseError _ _, ?_, ?_, fun a => ?_⟩
  · rw [State.raiseError_status, Status.failed, State.takeTurn_status]
  · exact s.takeTurn_v
  · exact s.takeTurn_rk
  · rw [State.readByte_raiseError]
    exact State.readByte_congr (s.buf_takeTurn .dst) s.takeTurn_epoch a

/-! ### The engine's step and the operands -/

/-- The engine's step is an error outcome or a commit of the state whose turn has been used up. -/
theorem step_engine_cases {s t : State} (hturn : s.turn = .engine) (h : step s = .next t) :
    (∃ e, t = s.takeTurn.raiseError e) ∨
      ∃ i, decode s.cmd = .command i ∧ t = s.takeTurn.commit (outputsOf i s.takeTurn) := by
  cases hd : decode s.cmd with
  | command i =>
    rw [step_of_engine_command hturn hd] at h
    obtain ⟨e, _, rfl⟩ | ⟨_, rfl⟩ := exec_cases h
    · exact .inl ⟨e, rfl⟩
    · exact .inr ⟨i, rfl, rfl⟩
  | illegal why =>
    rw [step_of_engine_illegal hturn hd] at h
    cases h
    exact .inl ⟨_, rfl⟩

/-- Settles O58: neither ending writes an operand. -/
theorem engineNeverWritesOperands : Obligations.EngineNeverWritesOperands := by
  intro s t hturn h
  obtain ⟨e, rfl⟩ | ⟨i, _, rfl⟩ := step_engine_cases hturn h <;> simp [State.srclen]

/-! ### Host statements and the outputs -/

/-- The outputs of the core that only a completion or RESET changes, and the number of resets. -/
structure SameOutputs (s t : State) : Prop where
  dst : t.dst = s.dst
  dstlen : t.dstlen = s.dstlen
  rk : t.rk = s.rk
  rkv : t.status.rkv = s.status.rkv
  epoch : t.epoch = s.epoch

theorem SameOutputs.trans {s t u : State} (h : SameOutputs s t) (k : SameOutputs t u) : SameOutputs s u :=
  ⟨k.dst.trans h.dst, k.dstlen.trans h.dstlen, k.rk.trans h.rk, k.rkv.trans h.rkv, k.epoch.trans h.epoch⟩

theorem SameCore.sameOutputs {s t : State} (h : SameCore s t) : SameOutputs s t :=
  ⟨h.bufs .dst, h.dstlen, h.rk, by rw [h.status], h.epoch⟩

theorem State.sameOutputs_takeTurn (s : State) : SameOutputs s s.takeTurn :=
  ⟨s.takeTurn_dst, State.dstlen_congr s.takeTurn_dstlenLo s.takeTurn_dstlenHi, s.takeTurn_rk, by simp,
    s.takeTurn_epoch⟩

/-- A host statement other than RESET leaves the outputs alone: an effect that counts a reset is RESET's. -/
theorem HostEffect.sameOutputs {s t : State} (h : HostEffect s t) (hepoch : t.epoch = s.epoch) : SameOutputs s t := by
  cases h with
  | same _ hsame => exact hsame.sameOutputs
  | register r x hr _ =>
    obtain ⟨_, hstatus, hlo, hhi, hrk, hep, hbuf⟩ := s.writeRegIdle_keeps hr x
    exact ⟨hbuf .dst, State.dstlen_congr hlo hhi, hrk, by rw [hstatus], hep⟩
  | byte sp off x _ _ =>
    obtain ⟨_, hstatus, hlo, hhi, hrk, hep, hdst⟩ := s.storeByte_keeps sp off x
    exact ⟨hdst, State.dstlen_congr hlo hhi, hrk, by rw [hstatus], hep⟩
  | accepted w _ => exact ⟨rfl, rfl, rfl, rfl, rfl⟩
  | reset => exact absurd hepoch (Nat.succ_ne_self s.epoch)

/-! ### Only RESET counts a reset -/

theorem State.epoch_writeReg (r : Reg) (x : Word) (s : State) : (s.writeReg r x).epoch = s.epoch := by
  unfold State.writeReg
  split
  · rfl
  · cases r <;> rfl

theorem State.epoch_hostStore (sp : Space) (off : Nat) (x : Byte) (s : State) :
    (s.hostStore sp off x).epoch = s.epoch := by
  unfold State.hostStore
  split_ifs
  · rfl
  · cases sp <;> rfl
  · rfl

theorem State.epoch_hostWr {k : Nat} {v : Val} {s t : State} (h : s.hostWr k v = .next t) : t.epoch = s.epoch := by
  unfold State.hostWr at h
  split at h <;> cases h
  exact State.epoch_writeReg _ _ s

theorem State.epoch_hostRd {k : Nat} {n : Name} {s t : State} (h : s.hostRd k n = .next t) : t.epoch = s.epoch := by
  unfold State.hostRd at h
  split at h <;> cases h
  exact (s.sameCore_readReg _).epoch

theorem State.epoch_hostExec {st : Stmt} {s t : State} (hst : st ≠ .reset) (h : s.hostExec st = .next t) :
    t.epoch = s.epoch := by
  cases st with
  | wr k v => exact State.epoch_hostWr h
  | rd k n => exact State.epoch_hostRd h
  | wb sp off v =>
    simp only [State.hostExec, State.hostWb] at h
    split at h <;> cases h
    exact State.epoch_hostStore _ _ _ s
  | rb sp off n => cases h; exact (s.sameCore_hostLoad sp off).epoch
  | busWr addr size v =>
    simp only [State.hostExec, State.hostBusWr] at h
    split at h
    · cases h
    · exact State.epoch_hostWr h
  | busRd addr size n =>
    simp only [State.hostExec, State.hostBusRd] at h
    split at h
    · cases h
    · exact State.epoch_hostRd h
  | label l => cases h; rfl
  | bnz n mask l =>
    simp only [State.hostExec, State.hostBnz] at h
    split at h
    · cases h
    · split_ifs at h
      · cases h; rfl
      · split at h <;> cases h
        rfl
  | reset => exact absurd rfl hst

/-- A step at the host's turn, other than a RESET, leaves the outputs alone. -/
theorem step_host_sameOutputs {s t : State} (hturn : s.turn = .host) (hst : s.hostStmt ≠ some .reset)
    (h : step s = .next t) : SameOutputs s t := by
  obtain ⟨_, _, rfl⟩ | ⟨st, _, hstmt, hexec⟩ | ⟨i, hengine, _⟩ | ⟨why, hengine, _⟩ := step_cases h
  · exact s.sameOutputs_takeTurn
  · rw [State.hostStmt_takeTurn] at hstmt
    have hne : st ≠ .reset := fun heq => hst (heq ▸ hstmt)
    have hkeep := (State.effect_hostExec hexec).sameOutputs (State.epoch_hostExec hne hexec)
    exact (s.sameOutputs_takeTurn.trans (State.sameCore_hostAt _ _).sameOutputs).trans hkeep
  · exact absurd (hturn.symm.trans hengine) nofun
  · exact absurd (hturn.symm.trans hengine) nofun

/-- Settles O57: the engine's step completes, and a host step other than RESET leaves the outputs alone. -/
theorem outputsChangeOnlyAtCompletion : Obligations.OutputsChangeOnlyAtCompletion := by
  intro s t h hchange
  cases hturn : s.turn with
  | engine =>
    obtain ⟨u, hnext, hbusy, hdone⟩ := step_of_engine_completes hturn
    cases h.symm.trans hnext
    exact .inl ⟨rfl, hbusy, hdone⟩
  | host =>
    by_contra hno
    have hkeep := step_host_sameOutputs hturn (fun hst => hno (.inr ⟨rfl, hst⟩)) h
    obtain hdst | hdstlen | hrk := hchange
    · exact hdst hkeep.dst
    · exact hdstlen hkeep.dstlen
    · exact hrk hkeep.rk

/-- Settles O56: an error keeps RKV and a commit sets it with the outputs' round keys; a host step other than RESET
leaves it alone. -/
theorem rkvChangesOnlyByRule : Obligations.RkvChangesOnlyByRule := by
  intro s t h
  cases hturn : s.turn with
  | engine =>
    obtain ⟨e, rfl⟩ | ⟨i, hd, rfl⟩ := step_engine_cases hturn h
    · have hkeep : (s.takeTurn.raiseError e).status.rkv = s.status.rkv := by simp [Status.failed]
      rw [hkeep]
      exact ⟨absurd_of_false_of_true, fun h1 h0 => absurd_of_false_of_true h0 h1⟩
    · have hrkv : (s.takeTurn.commit (outputsOf i s.takeTurn)).status.rkv = (s.status.rkv || writesRk i) := by
        simp [Status.succeeded, outputsOf_rk]
      rw [hrkv]
      refine ⟨fun h0 h1 => ⟨i, rfl, hd, ?_, rfl, rfl⟩, fun h1 h0 => ?_⟩
      · rwa [h0, Bool.false_or] at h1
      · rw [h1, Bool.true_or] at h0; cases h0
  | host =>
    by_cases hst : s.hostStmt = some .reset
    · rw [step_of_host hturn, State.hostStep, State.hostStmt_takeTurn, hst] at h
      cases h
      exact ⟨fun _ h1 => absurd h1 nofun, fun _ _ => ⟨rfl, hst⟩⟩
    · rw [(step_host_sameOutputs hturn hst h).rkv]
      exact ⟨absurd_of_false_of_true, fun h1 h0 => absurd_of_false_of_true h0 h1⟩

/-! ### A running command completes (R288, R332) -/

/-- While a command runs, a host statement other than RESET leaves the core alone (R93). -/
theorem State.hostExec_sameCore_of_busy {st : Stmt} {s t : State} (hb : s.status.busy = true) (hst : st ≠ .reset)
    (h : s.hostExec st = .next t) : SameCore s t := by
  have hepoch := State.epoch_hostExec hst h
  cases State.effect_hostExec h with
  | same _ hsame => exact hsame
  | register _ _ _ hidle => exact absurd_of_false_of_true hidle hb
  | byte _ _ _ hidle _ => exact absurd_of_false_of_true hidle hb
  | accepted _ hidle => exact absurd_of_false_of_true hidle hb
  | reset => exact absurd hepoch (Nat.succ_ne_self s.epoch)

theorem State.hostWr_refused {k : Nat} {v : Val} {s : State} {r : Refusal} (h : s.hostWr k v = .refused r)
    (mn : String) : r ≠ .notModelled mn := by
  unfold State.hostWr at h
  split at h <;> cases h <;> exact nofun

theorem State.hostRd_refused {k : Nat} {n : Name} {s : State} {r : Refusal} (h : s.hostRd k n = .refused r)
    (mn : String) : r ≠ .notModelled mn := by
  unfold State.hostRd at h
  split at h <;> cases h
  exact nofun

theorem busIndex_error_ne_notModelled {p : Platform} {addr size : Nat} {r : Refusal}
    (h : busIndex p addr size = .error r) (mn : String) : r ≠ .notModelled mn := by
  unfold busIndex at h
  split_ifs at h <;> cases h <;> exact nofun

/-- A host statement is refused by the name of what the core has no behaviour for (R336), never as not modelled. -/
theorem State.hostExec_refused {st : Stmt} {s : State} {r : Refusal} (h : s.hostExec st = .refused r)
    (mn : String) : r ≠ .notModelled mn := by
  cases st with
  | wr k v => exact State.hostWr_refused h mn
  | rd k n => exact State.hostRd_refused h mn
  | wb sp off v =>
    simp only [State.hostExec, State.hostWb] at h
    split at h <;> cases h
    exact nofun
  | rb sp off n => cases h
  | busWr addr size v =>
    simp only [State.hostExec, State.hostBusWr] at h
    split at h
    · next hi => cases h; exact busIndex_error_ne_notModelled hi mn
    · exact State.hostWr_refused h mn
  | busRd addr size n =>
    simp only [State.hostExec, State.hostBusRd] at h
    split at h
    · next hi => cases h; exact busIndex_error_ne_notModelled hi mn
    · exact State.hostRd_refused h mn
  | label l => cases h
  | bnz n mask l =>
    simp only [State.hostExec, State.hostBnz] at h
    split at h
    · cases h; exact nofun
    · split_ifs at h
      split at h <;> cases h
      exact nofun
  | reset => cases h

/-- The step at `u` ends the running command: a completion, an abort by RESET, or a refused host statement. -/
def EndsCommand (u : State) : Prop :=
  (u.turn = .engine ∧ ∃ t, step u = .next t ∧ t.status.busy = false ∧ t.status.done = true) ∨
    (u.turn = .host ∧ u.hostStmt = some .reset ∧ ∃ t, step u = .next t ∧ t.status = Status.reset) ∨
    (u.turn = .host ∧ ∃ st r, u.hostStmt = some st ∧ step u = .refused r ∧ ∀ mn, r ≠ .notModelled mn)

/-- A step from a state that runs a command ends the command, or it is a host move that leaves the command running and
uses up one entry of the interleaving. -/
theorem endsCommand_or_host_moves {s : State} (hb : s.status.busy = true) :
    EndsCommand s ∨ ∃ t, step s = .next t ∧ t.status.busy = true ∧ t.cmd = s.cmd ∧
      s.sched.length = t.sched.length + 1 := by
  cases hturn : s.turn with
  | engine => exact .inl (.inl ⟨hturn, step_of_engine_completes hturn⟩)
  | host =>
    obtain ⟨rest, st, hsched, hstmt⟩ := State.turn_host_of_busy hb hturn
    have hstep : step s = (s.takeTurn.hostAt (s.takeTurn.host.pos + 1)).hostExec st := by
      rw [step_of_host hturn, State.hostStep, State.hostStmt_takeTurn, hstmt]
    cases hexec : (s.takeTurn.hostAt (s.takeTurn.host.pos + 1)).hostExec st with
    | fault f => cases f
    | refused r =>
      exact .inl (.inr (.inr ⟨hturn, st, r, hstmt, hstep.trans hexec, State.hostExec_refused hexec⟩))
    | next t =>
      by_cases hst : st = .reset
      · subst hst
        exact .inl (.inr (.inl ⟨hturn, hstmt, _, hstep, rfl⟩))
      · have hsame := State.hostExec_sameCore_of_busy (by simpa using hb) hst hexec
        refine .inr ⟨t, hstep.trans hexec, ?_, ?_, ?_⟩
        · rw [hsame.status, State.hostAt_status, State.takeTurn_status, hb]
        · rw [hsame.cmd, State.hostAt_cmd, State.takeTurn_cmd]
        · rw [hsame.sched, State.hostAt_sched, State.takeTurn_sched, if_pos hb, hsched]
          rfl

/-- Settles O59: by induction on the number of entries the interleaving still holds. -/
theorem runningCommandCompletes : Obligations.RunningCommandCompletes := by
  intro s hb
  induction hn : s.sched.length generalizing s with
  | zero =>
    obtain hends | ⟨t, _, _, _, hlen⟩ := endsCommand_or_host_moves hb
    · exact ⟨0, s, Nat.le_refl 0, rfl, hb, rfl, hends⟩
    · omega
  | succ n ih =>
    obtain hends | ⟨t, hstep, htb, hcmd, hlen⟩ := endsCommand_or_host_moves hb
    · exact ⟨0, s, Nat.zero_le _, rfl, hb, rfl, hends⟩
    · obtain ⟨k, u, hk, hrun, hub, hucmd, hends⟩ := ih t htb (by omega)
      refine ⟨k + 1, u, Nat.succ_le_succ hk, ?_, hub, hucmd.trans hcmd, hends⟩
      have hcore : Sys2Proof.core.step s = .next t := hstep
      simp only [Host.Core.run, hcore]
      exact hrun

end Sys2Proof.Machine
end

section
/-! SUPPORT. Proofs of the statements of 10_state.md and 20_memory.md about the host's registers and buffers, and of
reset and acceptance (70_reset_and_hazards.md R320, 60_exceptions.md R285). -/

namespace Sys2Proof.Machine

/-! ### STATUS (R33) -/

@[simp] theorem getElem_bit (b : Bool) : (bit b)[0] = b := by
  cases b <;> rfl

theorem Status.word_reset : Status.reset.word = 0 := by decide

/-- The four flags, bits 0 to 3. -/
theorem Status.getLsbD_word (st : Status) : st.word.getLsbD 0 = st.busy ∧ st.word.getLsbD 1 = st.done ∧
    st.word.getLsbD 2 = st.err ∧ st.word.getLsbD 3 = st.rkv := by
  unfold Status.word
  simp only [BitVec.getLsbD_append]
  simp

/-- The fields above the flags, each reached past the ones below it. -/
theorem Status.extractLsb'_word (st : Status) : st.word.extractLsb' 4 4 = 0 ∧ st.word.extractLsb' 8 4 = st.errcode ∧
    st.word.extractLsb' 12 20 = 0 := by
  unfold Status.word
  refine ⟨?_, ?_, ?_⟩
  · iterate 4 rw [BitVec.extractLsb'_append_eq_of_le (by decide)]
    exact BitVec.extractLsb'_append_eq_right
  · iterate 5 rw [BitVec.extractLsb'_append_eq_of_le (by decide)]
    exact BitVec.extractLsb'_append_eq_right
  · iterate 6 rw [BitVec.extractLsb'_append_eq_of_le (by decide)]
    rfl

/-- STATUS has no storage that a host write reaches. -/
theorem State.writeReg_status (v : Word) (s : State) : s.writeReg .status v = s := ite_self s

/-- Settles O8: STATUS is the concatenation of its fields. -/
theorem statusWordFields : Obligations.StatusWordFields := by
  refine ⟨fun st => ?_, fun s v => ⟨rfl, s.writeReg_status v⟩⟩
  obtain ⟨hbusy, hdone, herr, hrkv⟩ := st.getLsbD_word
  obtain ⟨hlow, hcode, hhigh⟩ := st.extractLsb'_word
  exact ⟨hbusy, hdone, herr, hrkv, hlow, hcode, hhigh⟩

/-! ### Reads and writes of a named register -/

theorem State.readOr_false (x : Word) (s : State) : s.readOr false x = (x, s) := rfl

theorem State.readOr_true (x : Word) (s : State) : s.readOr true x = s.draw := rfl

theorem State.hostExec_rd {k : Nat} {r : Reg} (hr : regAt k = some r) (n : Name) (s : State) :
    s.hostExec (.rd k n) = .next ((s.readReg r).2.bindName n (s.readReg r).1) := by
  rw [State.hostExec, State.hostRd, hr]

/-- While idle, a read of a register with a stated value names that value and changes nothing. -/
theorem State.hostExec_rd_exact {k : Nat} {r : Reg} {x : Word} {s : State} (hr : regAt k = some r)
    (hread : s.readReg r = (x, s)) (n : Name) : s.hostExec (.rd k n) = .next (s.bindName n x) := by
  rw [State.hostExec_rd hr, hread]

theorem State.srclen_lo (s : State) : s.srclen.extractLsb' 0 32 = s.srclenLo := extract_lo _ _

theorem State.srclen_hi (s : State) : s.srclen.extractLsb' 32 32 = s.srclenHi := extract_hi _ _

theorem State.dstlen_lo (s : State) : s.dstlen.extractLsb' 0 32 = s.dstlenLo := extract_lo _ _

theorem State.dstlen_hi (s : State) : s.dstlen.extractLsb' 32 32 = s.dstlenHi := extract_hi _ _

/-- Settles O9: each index names its register, and while idle only RK without round keys is a free draw. -/
theorem idleRegisterReads : Obligations.IdleRegisterReads := by
  intro s n hb
  have hopen (x : Word) : s.readOr s.status.busy x = (x, s) := by rw [hb, State.readOr_false]
  rw [s.srclen_lo, s.srclen_hi, s.dstlen_lo, s.dstlen_hi]
  refine ⟨rfl, rfl, rfl, rfl, rfl, rfl, State.hostExec_rd_exact (r := .dstlenLo) rfl (hopen _) n,
    State.hostExec_rd_exact (r := .dstlenHi) rfl (hopen _) n,
    fun k => State.hostExec_rd_exact (regAt_v k) (hopen _) n, fun k hrkv => ?_, fun k hrkv => ?_,
    fun k => State.hostExec_rd_exact (regAt_reserved k) rfl n⟩
  · refine State.hostExec_rd_exact (regAt_rk k) ?_ n
    rw [State.readReg, hb, hrkv, Bool.not_true, Bool.or_false, State.readOr_false]
  · rw [State.hostExec_rd (regAt_rk k), State.readReg, hb, hrkv, Bool.not_false, Bool.or_true, State.readOr_true]
    rfl

theorem State.bufReadOpen_iff (sp : Space) (off : Nat) (s : State) :
    s.bufReadOpen sp off = true ↔ s.plat.cap sp ≤ off ∨ (s.status.busy = true ∧ sp = .dst) := by
  simp [State.bufReadOpen]

theorem State.hostLoad_open {sp : Space} {off : Nat} {s : State}
    (h : s.plat.cap sp ≤ off ∨ (s.status.busy = true ∧ sp = .dst)) :
    s.hostLoad sp off = (Config.readDraw s.draws &&& 0xFF, { s with draws := s.draws + 1 }) :=
  if_pos ((s.bufReadOpen_iff sp off).mpr h)

theorem State.hostLoad_stored {sp : Space} {off : Nat} {s : State} (ho : off < s.plat.cap sp)
    (h : s.status.busy = true → sp ≠ .dst) : s.hostLoad sp off = ((s.readByte sp off).setWidth 32, s) := by
  refine if_neg fun hopen => ?_
  obtain hcap | ⟨hb, hsp⟩ := (s.bufReadOpen_iff sp off).mp hopen
  · exact absurd ho (Nat.not_lt.mpr hcap)
  · exact h hb hsp

/-- Settles O10: while busy the reads of the output registers and of DST are open, the others exact. -/
theorem busyReadsOfOutputsAreDraws : Obligations.BusyReadsOfOutputsAreDraws := by
  intro s hb
  refine ⟨fun r => ?_, fun sp off hsp ho => State.hostLoad_stored ho fun _ => hsp,
    fun off _ => State.hostLoad_open (.inr ⟨hb, rfl⟩)⟩
  have hopen (x : Word) : s.readOr s.status.busy x = s.draw := by rw [hb, State.readOr_true]
  cases r with
  | dstlenLo => exact hopen _
  | dstlenHi => exact hopen _
  | v k => exact hopen _
  | rk i => rw [State.readReg, hb, Bool.true_or, State.readOr_true]; rfl
  | _ => rfl

theorem State.writeReg_of_idle {s : State} (hb : s.status.busy = false) (r : Reg) (x : Word) :
    s.writeReg r x = s.writeRegIdle r x := by
  rw [State.writeReg, hb]
  rfl

theorem State.hostExec_wr_of_idle {k : Nat} {r : Reg} {s : State} (hr : regAt k = some r) (hb : s.status.busy = false)
    (x : Word) : s.hostExec (.wr k (.imm x)) = .next (s.writeRegIdle r x) := by
  rw [State.hostExec, State.hostWr_imm hr, State.writeReg_of_idle hb]

/-- The indices of O12 whose registers a host write does not change. -/
theorem writeRegIdle_readOnly {k : Nat} (hk : k = 0x01 ∨ k = 0x06 ∨ k = 0x07 ∨ (0x10 ≤ k ∧ k < 0x40)) (x : Word)
    (s : State) : ∃ r, regAt k = some r ∧ s.writeRegIdle r x = s := by
  obtain rfl | rfl | rfl | ⟨hlo, hhi⟩ := hk
  · exact ⟨_, rfl, rfl⟩
  · exact ⟨_, rfl, rfl⟩
  · exact ⟨_, rfl, rfl⟩
  · by_cases hrk : k < 0x30
    · obtain ⟨j, rfl⟩ := Nat.exists_eq_add_of_le hlo
      exact ⟨_, regAt_rk ⟨j, by omega⟩, rfl⟩
    · obtain ⟨j, rfl⟩ := Nat.exists_eq_add_of_le (Nat.not_lt.mp hrk)
      exact ⟨_, regAt_reserved ⟨j, by omega⟩, rfl⟩

/-- Settles O12: each index names its register, and the write is that register's. -/
theorem idleRegisterWrites : Obligations.IdleRegisterWrites := by
  intro s x hb
  refine ⟨State.hostExec_wr_of_idle (r := .srclenLo) rfl hb x, State.hostExec_wr_of_idle (r := .srclenHi) rfl hb x,
    State.hostExec_wr_of_idle (r := .keylen) rfl hb x, State.hostExec_wr_of_idle (r := .ivlen) rfl hb x,
    fun k => State.hostExec_wr_of_idle (regAt_v k) hb x, fun k hk => ?_⟩
  obtain ⟨r, hr, hkeep⟩ := writeRegIdle_readOnly hk x s
  rw [State.hostExec_wr_of_idle hr hb, hkeep]

/-- Settles O13: no register has the index. -/
theorem accessOutsideMapRefused : Obligations.AccessOutsideMapRefused := by
  intro s k x n hk
  have hnone := regAt_outside hk
  constructor
  · rw [State.hostExec, State.hostWr, hnone]
  · rw [State.hostExec, State.hostRd, hnone]

/-- Settles O20: the write is an acceptance. -/
theorem cmdWriteIsAccepted : Obligations.CmdWriteIsAccepted :=
  fun _ w hb => State.hostExec_wr_of_idle (r := .cmd) rfl hb w

/-! ### Purity and idempotence (R92) -/

theorem Memory.write_write (m : Memory) (a : Nat) (v : Byte) : (m.write a v).write a v = m.write a v := by
  induction m with
  | nil => simp [Memory.write]
  | cons c m ih =>
    obtain ⟨b, u⟩ := c
    simp only [Memory.write]
    split_ifs with hlt heq
    · simp [Memory.write]
    · simp [Memory.write]
    · simp [Memory.write, hlt, heq, ih]

theorem State.storeByte_storeByte (sp : Space) (off : Nat) (x : Byte) (s : State) :
    (s.storeByte sp off x).storeByte sp off x = s.storeByte sp off x := by
  cases sp <;> simp only [State.storeByte, Memory.write_write]

theorem State.hostStore_of_idle {sp : Space} {off : Nat} {s : State} (hb : s.status.busy = false)
    (ho : off < s.plat.cap sp) (x : Byte) : s.hostStore sp off x = s.storeByte sp off x := by
  rw [State.hostStore, hb, if_pos ho]
  rfl

theorem State.hostStore_beyond {sp : Space} {off : Nat} {s : State} (ho : s.plat.cap sp ≤ off) (x : Byte) :
    s.hostStore sp off x = s := by
  rw [State.hostStore, if_neg (Nat.not_lt.mpr ho), ite_self]

theorem State.hostStore_hostStore (sp : Space) (off : Nat) (x : Byte) (s : State) :
    (s.hostStore sp off x).hostStore sp off x = s.hostStore sp off x := by
  cases hb : s.status.busy with
  | true => rw [State.hostStore_of_busy hb, State.hostStore_of_busy hb]
  | false =>
    by_cases ho : off < s.plat.cap sp
    · obtain ⟨hplat, hstatus, _⟩ := s.storeByte_keeps sp off x
      rw [State.hostStore_of_idle hb ho, State.hostStore_of_idle (by rw [hstatus, hb]) (by rwa [hplat]),
        State.storeByte_storeByte]
    · rw [State.hostStore_beyond (Nat.not_lt.mp ho), State.hostStore_beyond (Nat.not_lt.mp ho)]

theorem State.writeReg_writeReg {r : Reg} (hr : r ≠ .cmd) (x : Word) (s : State) :
    (s.writeReg r x).writeReg r x = s.writeReg r x := by
  cases hb : s.status.busy with
  | true => rw [State.writeReg_of_busy hb, State.writeReg_of_busy hb]
  | false =>
    obtain ⟨_, hstatus, _⟩ := s.writeRegIdle_keeps hr x
    rw [State.writeReg_of_idle hb, State.writeReg_of_idle (by rw [hstatus, hb])]
    cases r with
    | cmd => exact absurd rfl hr
    | v k => simp [State.writeRegIdle]
    | _ => rfl

/-- Settles O15: reads keep the core whatever they read, and a second equal write finds its value already stored. -/
theorem readsPureAndWritesIdempotent : Obligations.ReadsPureAndWritesIdempotent :=
  ⟨fun s r => s.sameCore_readReg r, fun s sp off => s.sameCore_hostLoad sp off,
    fun s _ x hr => s.writeReg_writeReg hr x, fun s sp off x => s.hostStore_hostStore sp off x⟩

/-! ### Buffer bytes (R85, R86, R90) -/

/-- Settles O16: a store beyond a capacity is ignored, a load there is open, and an idle load of DST is not. -/
theorem bufferAccessBeyondCapacity : Obligations.BufferAccessBeyondCapacity :=
  fun _ => ⟨fun _ _ x _ ho => State.hostStore_beyond ho x, fun _ _ _ ho => State.hostLoad_open (.inl ho),
    fun _ hb _ ho => State.hostLoad_stored ho (absurd_of_false_of_true hb)⟩

/-- A stored byte reads back, and every other byte of every buffer is as before. -/
theorem State.readByte_storeByte {sp : Space} (hsp : sp ≠ .dst) (off : Nat) (x : Byte) (s : State) (sq : Space)
    (a : Nat) : (s.storeByte sp off x).readByte sq a = if sq = sp ∧ a = off then x else s.readByte sq a := by
  have hepoch : (s.storeByte sp off x).epoch = s.epoch := by cases sp <;> rfl
  simp only [State.readByte, State.buf_storeByte, hepoch]
  by_cases hsq : sq = sp
  · rw [if_pos ⟨hsq, hsp⟩, Memory.find_write]
    by_cases ha : a = off
    · rw [if_pos ha, if_pos ⟨hsq, ha⟩, Option.getD_some]
    · rw [if_neg ha, if_neg (fun h => ha h.2)]
  · rw [if_neg (fun h => hsq h.1), if_neg (fun h => hsq h.1)]

/-- The low byte of a word, as a word, is the word masked. -/
theorem setWidth_low_byte (x : Word) : (x.extractLsb' 0 8).setWidth 32 = x &&& 0xFF := by
  have hmask : (x &&& 0xFF).toNat = x.toNat % 2 ^ 8 := Nat.and_two_pow_sub_one_eq_mod x.toNat 8
  apply BitVec.eq_of_toNat_eq
  rw [hmask, BitVec.toNat_setWidth, BitVec.extractLsb'_toNat, Nat.shiftRight_zero]
  omega

theorem State.hostExec_rb_of_load {sp : Space} {off : Nat} {s : State} {x : Word} (h : s.hostLoad sp off = (x, s))
    (n : Name) : s.hostExec (.rb sp off n) = .next (s.bindName n x) := by
  rw [State.hostExec, State.hostRb, h]

theorem State.hostExec_wb_of_idle {sp : Space} {off : Nat} {s : State} (hb : s.status.busy = false)
    (ho : off < s.plat.cap sp) (x : Word) :
    s.hostExec (.wb sp off (.imm x)) = .next (s.storeByte sp off (x.extractLsb' 0 8)) := by
  rw [State.hostExec, State.hostWb_imm, State.hostStore_of_idle hb ho]

/-- Settles O17: an idle WB within the capacity is a byte store, an idle RB there reads the byte stored, and a named
operand stands for its value. -/
theorem bufferStoreThenLoad : Obligations.BufferStoreThenLoad := by
  intro s sp off x m n hb ho
  have hload (t : State) (hplat : t.plat = s.plat) (hstatus : t.status = s.status) :
      t.hostExec (.rb sp off n) = .next (t.bindName n ((t.readByte sp off).setWidth 32)) :=
    State.hostExec_rb_of_load (State.hostLoad_stored (by rwa [hplat]) fun hbusy => by
      rw [hstatus, hb] at hbusy; cases hbusy) n
  refine ⟨fun hsp => ⟨_, State.hostExec_wb_of_idle hb ho x, rfl, ?_, fun sq a hne => ?_⟩, fun hsp => ?_,
    hload s rfl rfl, fun hm => ?_⟩
  · obtain ⟨hplat, hstatus, _⟩ := s.storeByte_keeps sp off (x.extractLsb' 0 8)
    rw [hload _ hplat hstatus, State.readByte_storeByte hsp, if_pos ⟨rfl, rfl⟩, setWidth_low_byte]
  · rw [State.readByte_storeByte hsp, if_neg (fun h => hne.elim (absurd h.1) (absurd h.2))]
  · subst hsp
    rw [State.hostExec_wb_of_idle hb ho]
    rfl
  · rw [State.hostExec, State.hostExec, State.hostWb, State.valOf, hm]
    rfl

/-! ### Reset (R54, R320) -/

/-- Where no byte has been written a buffer reads as its free reset byte (R44). -/
theorem State.readByte_of_buf_nil {s : State} {sp : Space} (h : s.buf sp = []) (off : Nat) :
    s.readByte sp off = Config.resetByte s.epoch sp off := by
  rw [State.readByte, h]
  rfl

/-- Without round keys a read of RKi is a free draw (U1). -/
theorem State.readReg_rk_of_not_rkv {s : State} (h : s.status.rkv = false) (i : Fin 32) :
    s.readReg (.rk i) = s.draw := by
  rw [State.readReg, h, Bool.not_false, Bool.or_true, State.readOr_true]

theorem State.reset_buf (sp : Space) : State.reset.buf sp = [] := by
  cases sp <;> rfl

theorem State.resetCore_buf (sp : Space) (s : State) : s.resetCore.buf sp = [] := by
  cases sp <;> rfl

theorem State.srclen_of_zero {s : State} (hlo : s.srclenLo = 0) (hhi : s.srclenHi = 0) : s.srclen = 0 := by
  rw [State.srclen, hlo, hhi]
  rfl

/-- Settles O18: the reset state's fields are 0, SM3_IV or empty. -/
theorem resetStateValues : Obligations.ResetStateValues :=
  ⟨rfl, Status.word_reset, State.srclen_of_zero rfl rfl, rfl, rfl, State.dstlen_of_zero rfl rfl, rfl,
    fun sp off => State.readByte_of_buf_nil (State.reset_buf sp) off,
    fun i => congrArg Prod.fst (State.readReg_rk_of_not_rkv rfl i), rfl⟩

/-- Settles O19: RESET answers the reset state's fields, whatever state it is given in. -/
theorem resetFromAnyState : Obligations.ResetFromAnyState :=
  fun s => ⟨s.resetCore, rfl, rfl, Status.word_reset, State.srclen_of_zero rfl rfl, rfl, rfl,
    State.dstlen_of_zero rfl rfl, rfl, fun sp off => State.readByte_of_buf_nil (s.resetCore_buf sp) off,
    fun i => congrArg Prod.fst (State.readReg_rk_of_not_rkv (s := s.resetCore) rfl i), rfl, rfl⟩

end Sys2Proof.Machine
end

section
/-! SUPPORT. Proofs of the statements of 43_modes.md about the mode functions: the two directions invert each other
(R260), how long a decryption is, and how far a wrong IV or ciphertext block reaches (R259). -/

namespace Sys2Proof.Machine

/-! ### Cutting a string into the blocks it was made of -/

theorem blocks16_nil : blocks16 [] = [] := by
  rw [blocks16, List.length_nil, Nat.zero_div, List.range_zero, List.map_nil]

theorem blocks16_append {B : List Byte} (hB : B.length = 16) (S : List Byte) :
    blocks16 (B ++ S) = B :: blocks16 S := by
  have hlen : (B ++ S).length / 16 = S.length / 16 + 1 := by
    rw [List.length_append, hB, Nat.add_comm, Nat.add_div_right _ (by decide)]
  have htail : (blockOf 16 (B ++ S)) ∘ Nat.succ = blockOf 16 S := funext fun b => blockOf_append 16 B S b hB
  rw [blocks16, hlen, List.range_succ_eq_map, List.map_cons, List.map_map, blockOf_zero 16 B S hB, htail, blocks16]

theorem blocks16_flatMap {f : List Byte → List Byte} (hf : ∀ B, (f B).length = 16) (Bs : List (List Byte)) :
    blocks16 (Bs.flatMap f) = Bs.map f := by
  induction Bs with
  | nil => exact blocks16_nil
  | cons B Bs ih => rw [List.flatMap_cons, blocks16_append (hf B), ih, List.map_cons]

/-- The padded plaintext is its blocks. -/
theorem flatten_blocks16_pkcs7Pad (P : List Byte) : (blocks16 (pkcs7Pad P)).flatten = pkcs7Pad P :=
  flatten_blocks16 _ (by rw [length_pkcs7Pad, Nat.mul_mod_right])

/-! ### Round trips (R260) -/

theorem flatMap_sm4Dec_sm4Enc (rk : Vector Word 32) {Bs : List (List Byte)} (hBs : ∀ B ∈ Bs, B.length = 16) :
    (Bs.map (sm4Enc rk)).flatMap (sm4Dec rk) = Bs.flatten := by
  induction Bs with
  | nil => rfl
  | cons B Bs ih =>
    rw [List.map_cons, List.flatMap_cons, List.flatten_cons, sm4Dec_sm4Enc rk (hBs B List.mem_cons_self),
      ih fun C hC => hBs C (List.mem_cons_of_mem B hC)]

theorem ecbDec_ecbEnc (rk : Vector Word 32) (P : List Byte) : ecbDec rk (ecbEnc rk P) = P := by
  rw [ecbDec, ecbEnc, blocks16_flatMap (length_sm4Enc rk), flatMap_sm4Dec_sm4Enc rk fun _ => length_of_mem_blocks16,
    flatten_blocks16_pkcs7Pad, pkcs7Unpad_pkcs7Pad]

/-- Each ciphertext block decrypts to the plaintext block xored with the chaining value it was made with. -/
theorem cbcDecLoop_cbcEncLoop (rk : Vector Word 32) {chain : List Byte} {Bs : List (List Byte)}
    (hchain : chain.length = 16) (hBs : ∀ B ∈ Bs, B.length = 16) :
    cbcDecLoop rk chain (blocks16 (cbcEncLoop rk chain Bs)) = Bs.flatten := by
  induction Bs generalizing chain with
  | nil => rw [cbcEncLoop, blocks16_nil]; rfl
  | cons B Bs ih =>
    have hB : B.length = 16 := hBs B List.mem_cons_self
    have hxor : (xorBytes B chain).length = 16 := by rw [length_xorBytes, hB, hchain, Nat.min_self]
    rw [cbcEncLoop, blocks16_append (length_sm4Enc _ _), cbcDecLoop, sm4Dec_sm4Enc rk hxor,
      xorBytes_cancel B chain (hB.trans hchain.symm),
      ih (length_sm4Enc _ _) fun C hC => hBs C (List.mem_cons_of_mem B hC), List.flatten_cons]

theorem cbcDec_cbcEnc (rk : Vector Word 32) {iv : List Byte} (hiv : iv.length = 16) (P : List Byte) :
    cbcDec rk iv (cbcEnc rk iv P) = P := by
  rw [cbcDec, cbcEnc, cbcDecLoop_cbcEncLoop rk hiv fun _ => length_of_mem_blocks16, flatten_blocks16_pkcs7Pad,
    pkcs7Unpad_pkcs7Pad]

/-- Settles O44: decryption gives back the padded plaintext, which unpads to the plaintext. -/
theorem modeFunctionsRoundTrip : Obligations.ModeFunctionsRoundTrip := by
  intro key iv P _ hiv
  refine ⟨ecbDec_ecbEnc _ P, cbcDec_cbcEnc _ hiv P, ?_⟩
  rw [length_cbcEnc, length_ecbEnc]
  omega

/-! ### Lengths of decryptions -/

theorem length_xorBytes_sm4Dec (rk : Vector Word 32) (C : List Byte) {chain : List Byte} (h : chain.length = 16) :
    (xorBytes (sm4Dec rk C) chain).length = 16 := by
  rw [length_xorBytes, length_sm4Dec, h, Nat.min_self]

theorem length_cbcDecLoop_of_blocks (rk : Vector Word 32) {chain : List Byte} {Cs : List (List Byte)}
    (hchain : chain.length = 16) (hCs : ∀ C ∈ Cs, C.length = 16) :
    (cbcDecLoop rk chain Cs).length = 16 * Cs.length := by
  induction Cs generalizing chain with
  | nil => rfl
  | cons C Cs ih =>
    rw [cbcDecLoop, List.length_append, length_xorBytes_sm4Dec rk C hchain,
      ih (hCs C List.mem_cons_self) fun D hD => hCs D (List.mem_cons_of_mem C hD), List.length_cons]
    omega

/-- The unpadding of a decryption removes at most one block (R231). -/
theorem length_sub_le_length_ecbDec (rk : Vector Word 32) {C : List Byte} (hC : C.length % 16 = 0) :
    C.length - 16 ≤ (ecbDec rk C).length := by
  refine Nat.le_trans ?_ (length_sub_le_length_pkcs7Unpad _)
  rw [length_flatMap_const (length_sm4Dec rk), length_blocks16]
  omega

theorem length_sub_le_length_cbcDec (rk : Vector Word 32) {iv C : List Byte} (hiv : iv.length = 16)
    (hC : C.length % 16 = 0) : C.length - 16 ≤ (cbcDec rk iv C).length := by
  refine Nat.le_trans ?_ (length_sub_le_length_pkcs7Unpad _)
  rw [length_cbcDecLoop_of_blocks rk hiv fun _ => length_of_mem_blocks16, length_blocks16]
  omega

/-! ### Error propagation (R259) -/

/-- The chaining value reaches the first block only: the rest is chained to the first ciphertext block. -/
theorem drop_cbcDecLoop_cons (rk : Vector Word 32) {chain : List Byte} (hchain : chain.length = 16) (C : List Byte)
    (Cs : List (List Byte)) : (cbcDecLoop rk chain (C :: Cs)).drop 16 = cbcDecLoop rk C Cs := by
  rw [cbcDecLoop, List.drop_left' (length_xorBytes_sm4Dec rk C hchain)]

/-- After the blocks `Cs` the loop goes on from the last of them. -/
theorem cbcDecLoop_append (rk : Vector Word 32) (chain : List Byte) (Cs Ds : List (List Byte)) :
    cbcDecLoop rk chain (Cs ++ Ds) = cbcDecLoop rk chain Cs ++ cbcDecLoop rk (Cs.getLastD chain) Ds := by
  induction Cs generalizing chain with
  | nil => rfl
  | cons C Cs ih =>
    rw [List.cons_append, cbcDecLoop, cbcDecLoop, ih C, List.append_assoc, List.getLastD_cons]

theorem length_getLastD {chain : List Byte} {Cs : List (List Byte)} (hchain : chain.length = 16)
    (hCs : ∀ C ∈ Cs, C.length = 16) : (Cs.getLastD chain).length = 16 := by
  induction Cs generalizing chain with
  | nil => exact hchain
  | cons C Cs ih =>
    rw [List.getLastD_cons]
    exact ih (hCs C List.mem_cons_self) fun D hD => hCs D (List.mem_cons_of_mem C hD)

/-- From the second block after a replaced ciphertext block on, nothing depends on it. -/
theorem drop_cbcDecLoop_replaced (rk : Vector Word 32) {chain C C' : List Byte} (hchain : chain.length = 16)
    (hC : C.length = 16) (hC' : C'.length = 16) (Ds : List (List Byte)) :
    (cbcDecLoop rk chain (C :: Ds)).drop 32 = (cbcDecLoop rk chain (C' :: Ds)).drop 32 := by
  have hsplit (E : List Byte) :
      (cbcDecLoop rk chain (E :: Ds)).drop 32 = (cbcDecLoop rk E Ds).drop 16 := by
    rw [← drop_cbcDecLoop_cons rk hchain E Ds, List.drop_drop]
  rw [hsplit, hsplit]
  cases Ds with
  | nil => rfl
  | cons D Ds => rw [drop_cbcDecLoop_cons rk hC, drop_cbcDecLoop_cons rk hC']

/-- Settles O45: the blocks before the replaced one are decrypted without it, and the blocks from the second after it
on are chained to blocks that follow it. -/
theorem cbcErrorPropagation : Obligations.CbcErrorPropagation := by
  intro rk iv iv' Cs Ds C C' hiv hiv' hCs hC hC'
  have hlen : (cbcDecLoop rk iv Cs).length = 16 * Cs.length := length_cbcDecLoop_of_blocks rk hiv hCs
  have hlast : (Cs.getLastD iv).length = 16 := length_getLastD hiv hCs
  refine ⟨?_, ?_, ?_⟩
  · rw [drop_cbcDecLoop_cons rk hiv, drop_cbcDecLoop_cons rk hiv']
  · rw [cbcDecLoop_append, cbcDecLoop_append, List.take_left' hlen, List.take_left' hlen]
  · rw [cbcDecLoop_append, cbcDecLoop_append, ← List.drop_drop, ← List.drop_drop, List.drop_left' hlen,
      List.drop_left' hlen, drop_cbcDecLoop_replaced rk hlast hC hC']

end Sys2Proof.Machine
end

section
/-! SUPPORT. Proofs of the statements about what each command answers (40_sm3.md R160, R162; 41_sm4.md R200 to R202;
42_pkcs7.md R235, R236; 43_modes.md R256 to R259): which checks pass, and the commit of the command's outputs. -/

namespace Sys2Proof.Machine

/-! ### The conditions of R282, decided -/

theorem srcTooLong_of_le {s : State} (h : s.srcLen ≤ s.plat.srcCap) : srcTooLong s = false :=
  decide_eq_false (Nat.not_lt.mpr h)

theorem srcTooLong_of_lt {s : State} (h : s.plat.srcCap < s.srcLen) : srcTooLong s = true :=
  decide_eq_true h

theorem keyLenBad_of_eq {s : State} (h : s.snap.keylen = 16) : keyLenBad s = false :=
  decide_eq_false (not_not.mpr h)

theorem keyLenBad_of_ne {s : State} (h : s.snap.keylen ≠ 16) : keyLenBad s = true := decide_eq_true h

theorem ivLenBad_of_eq {s : State} (h : s.snap.ivlen = 16) : ivLenBad s = false :=
  decide_eq_false (not_not.mpr h)

theorem ivLenBad_of_ne {s : State} (h : s.snap.ivlen ≠ 16) : ivLenBad s = true := decide_eq_true h

theorem cipherLenBad_of_blocks {s : State} (hpos : 0 < s.srcLen) (hmod : s.srcLen % 16 = 0) :
    cipherLenBad s = false :=
  decide_eq_false (by omega)

theorem cipherLenBad_of_ragged {s : State} (h : s.srcLen = 0 ∨ s.srcLen % 16 ≠ 0) : cipherLenBad s = true :=
  decide_eq_true h

theorem blockLenBad_of_eq {n : Nat} {s : State} (h : s.srcLen = n) : blockLenBad n s = false :=
  decide_eq_false (not_not.mpr h)

theorem blockLenBad_of_ne {n : Nat} {s : State} (h : s.srcLen ≠ n) : blockLenBad n s = true :=
  decide_eq_true h

theorem keysNotLoaded_of_rkv {s : State} {b : Bool} (h : s.snap.rkv = b) : keysNotLoaded s = !b :=
  congrArg _ h

/-! ### Walking down a row of R283 -/

theorem firstFailing_pass {b : Bool} {e : CmdError} {cs : List (Bool × CmdError)} {r : Option CmdError}
    (hb : b = false) (hrest : firstFailing cs = r) : firstFailing ((b, e) :: cs) = r := by
  rw [hb, ← hrest]
  rfl

theorem firstFailing_fail {b : Bool} {e : CmdError} {cs : List (Bool × CmdError)} (hb : b = true) :
    firstFailing ((b, e) :: cs) = some e := by
  rw [hb]
  rfl

/-- Every row that checks the source's range checks it first. -/
theorem exec_of_srcTooLong {i : Instr} {s : State} {rest : List (Bool × CmdError)}
    (hrow : checksOf i s = (srcTooLong s, .sourceLengthOutOfRange) :: rest) (h : s.plat.srcCap < s.srcLen) :
    exec i s = .next (s.raiseError .sourceLengthOutOfRange) :=
  exec_fails (hrow ▸ firstFailing_fail (srcTooLong_of_lt h))

/-- The rows of the mode commands check the range and then KEYLEN. -/
theorem exec_of_keyLenBad {i : Instr} {s : State} {rest : List (Bool × CmdError)}
    (hrow : checksOf i s = (srcTooLong s, .sourceLengthOutOfRange) :: (keyLenBad s, .invalidKeyLength) :: rest)
    (hsrc : s.srcLen ≤ s.plat.srcCap) (hkey : s.snap.keylen ≠ 16) :
    exec i s = .next (s.raiseError .invalidKeyLength) :=
  exec_fails (hrow ▸ firstFailing_pass (srcTooLong_of_le hsrc) (firstFailing_fail (keyLenBad_of_ne hkey)))

/-- A mode command with a source in range and a 16-byte key goes on to the rest of its row. -/
theorem firstFailing_modeRow {s : State} {e e' : CmdError} {rest : List (Bool × CmdError)} {r : Option CmdError}
    (hsrc : s.srcLen ≤ s.plat.srcCap) (hkey : s.snap.keylen = 16) (hrest : firstFailing rest = r) :
    firstFailing ((srcTooLong s, e) :: (keyLenBad s, e') :: rest) = r :=
  firstFailing_pass (srcTooLong_of_le hsrc) (firstFailing_pass (keyLenBad_of_eq hkey) hrest)

theorem ecbDecRow_pass {s : State} (hsrc : s.srcLen ≤ s.plat.srcCap) (hkey : s.snap.keylen = 16)
    (hpos : 0 < s.srcLen) (hmod : s.srcLen % 16 = 0) : firstFailing (checksOf .ecbDec s) = none :=
  firstFailing_modeRow hsrc hkey (firstFailing_pass (cipherLenBad_of_blocks hpos hmod) firstFailing_nil)

theorem ecbDecRow_ragged {s : State} (hsrc : s.srcLen ≤ s.plat.srcCap) (hkey : s.snap.keylen = 16)
    (hbad : s.srcLen = 0 ∨ s.srcLen % 16 ≠ 0) : firstFailing (checksOf .ecbDec s) = some .invalidCiphertextLength :=
  firstFailing_modeRow hsrc hkey (firstFailing_fail (cipherLenBad_of_ragged hbad))

theorem cbcEncRow_pass {s : State} (hsrc : s.srcLen ≤ s.plat.srcCap) (hkey : s.snap.keylen = 16)
    (hiv : s.snap.ivlen = 16) : firstFailing (checksOf .cbcEnc s) = none :=
  firstFailing_modeRow hsrc hkey (firstFailing_pass (ivLenBad_of_eq hiv) firstFailing_nil)

theorem cbcEncRow_ivLen {s : State} (hsrc : s.srcLen ≤ s.plat.srcCap) (hkey : s.snap.keylen = 16)
    (hiv : s.snap.ivlen ≠ 16) : firstFailing (checksOf .cbcEnc s) = some .invalidIvLength :=
  firstFailing_modeRow hsrc hkey (firstFailing_fail (ivLenBad_of_ne hiv))

theorem cbcDecRow_ivLen {s : State} (hsrc : s.srcLen ≤ s.plat.srcCap) (hkey : s.snap.keylen = 16)
    (hiv : s.snap.ivlen ≠ 16) : firstFailing (checksOf .cbcDec s) = some .invalidIvLength :=
  firstFailing_modeRow hsrc hkey (firstFailing_fail (ivLenBad_of_ne hiv))

/-- The row of CBC_DEC ends with the check of SRCLEN. -/
theorem cbcDecRow_tail {s : State} {r : Option CmdError} (hsrc : s.srcLen ≤ s.plat.srcCap)
    (hkey : s.snap.keylen = 16) (hiv : s.snap.ivlen = 16)
    (hrest : firstFailing [(cipherLenBad s, .invalidCiphertextLength)] = r) :
    firstFailing (checksOf .cbcDec s) = r :=
  firstFailing_modeRow hsrc hkey (firstFailing_pass (ivLenBad_of_eq hiv) hrest)

theorem sm3CompressRow_pass {s : State} (hlen : s.srcLen = 64) (hcap : 64 ≤ s.plat.srcCap) :
    firstFailing (checksOf .sm3Compress s) = none :=
  firstFailing_pass (srcTooLong_of_le (hlen.le.trans hcap))
    (firstFailing_pass (blockLenBad_of_eq hlen) firstFailing_nil)

theorem sm3CompressRow_length {s : State} (hsrc : s.srcLen ≤ s.plat.srcCap) (hlen : s.srcLen ≠ 64) :
    firstFailing (checksOf .sm3Compress s) = some .invalidBlockLength :=
  firstFailing_pass (srcTooLong_of_le hsrc) (firstFailing_fail (blockLenBad_of_ne hlen))

/-- A command whose checks pass answers the commit of its outputs. -/
theorem exec_success {i : Instr} {s : State} (h : firstFailing (checksOf i s) = none) :
    ∃ t, exec i s = .next t ∧ Succeeded s t (outputsOf i s).dst ∧
      t.dstlen = BitVec.ofNat 64 (outputsOf i s).dst.length ∧ t.v = (outputsOf i s).v.getD s.v ∧
      t.rk = (outputsOf i s).rk.getD s.rk ∧ t.status.rkv = (s.status.rkv || writesRk i) :=
  ⟨_, exec_succeeds h, s.succeeded_commit _, s.dstlen_commit _, rfl, rfl, by
    rw [State.commit_status, Status.succeeded, outputsOf_rk]⟩

/-! ### SM3 -/

/-- Settles O24: SM3_HASH checks the source's range and commits the final chaining value. -/
theorem sm3HashGivesDigest : Obligations.Sm3HashGivesDigest := by
  refine ⟨(decode_eq_command_iff _ _).mpr rfl, fun s => ⟨fun hsrc => ?_, exec_of_srcTooLong rfl⟩⟩
  obtain ⟨t, hnext, hok, hlen, hv, hrk, hrkv⟩ := exec_success (i := .sm3Hash) (s := s)
    (firstFailing_pass (srcTooLong_of_le hsrc) firstFailing_nil)
  refine ⟨t, hnext, hok, hlen.trans ?_, fun k => ?_, hrk, hrkv.trans (Bool.or_false _)⟩
  · exact congrArg (BitVec.ofNat 64) (length_digestBytes _)
  · have hword : t.v = sm3Words s.srcBytes := hv
    rw [sm3, be32_digestBytes _ k.val k.isLt, hword]
    rfl

/-- Settles O26: SM3_COMPRESS checks the range, then the block's length, and commits CF of the snapshot's V. -/
theorem sm3CompressAppliesCf : Obligations.Sm3CompressAppliesCf := by
  refine ⟨(decode_eq_command_iff _ _).mpr rfl, fun s => ⟨fun hlen hcap => ?_, exec_of_srcTooLong rfl,
    fun hsrc hne => exec_fails (sm3CompressRow_length hsrc hne)⟩⟩
  obtain ⟨t, hnext, hok, hdst, hv, hrk, hrkv⟩ := exec_success (sm3CompressRow_pass hlen hcap)
  have hword : t.v = sm3CF s.snap.v (s.memRead .src 0 64) := hv
  refine ⟨t, hnext, hword, ?_, hdst.trans ?_, hrk, hrkv.trans (Bool.or_false _)⟩
  · rw [hword]; exact hok
  · exact congrArg (BitVec.ofNat 64) (length_digestBytes _)

/-! ### SM4 -/

/-- Settles O27: SM4_KEYEXP checks KEYLEN only and commits the schedule and no string. -/
theorem sm4KeyexpLoadsSchedule : Obligations.Sm4KeyexpLoadsSchedule := by
  refine ⟨(decode_eq_command_iff _ _).mpr rfl, fun s => ⟨fun hkey => ?_,
    fun hkey => exec_fails (firstFailing_fail (keyLenBad_of_ne hkey))⟩⟩
  obtain ⟨t, hnext, hok, hlen, hv, hrk, hrkv⟩ := exec_success (i := .sm4Keyexp) (s := s)
    (firstFailing_pass (keyLenBad_of_eq hkey) firstFailing_nil)
  exact ⟨t, hnext, hok, hlen, hrk, hrkv.trans (Bool.or_true _), hv⟩

/-- The check row of the block commands passes for one block under loaded round keys. -/
theorem blockChecks_pass {s : State} (hlen : s.srcLen = 16) (hcap : 16 ≤ s.plat.srcCap) (hrkv : s.snap.rkv = true) :
    firstFailing (blockChecks s) = none :=
  firstFailing_pass (srcTooLong_of_le (hlen.le.trans hcap)) (firstFailing_pass (blockLenBad_of_eq hlen)
    (firstFailing_pass (keysNotLoaded_of_rkv hrkv) firstFailing_nil))

theorem blockChecks_length {s : State} (hsrc : s.srcLen ≤ s.plat.srcCap) (hlen : s.srcLen ≠ 16) :
    firstFailing (blockChecks s) = some .invalidBlockLength :=
  firstFailing_pass (srcTooLong_of_le hsrc) (firstFailing_fail (blockLenBad_of_ne hlen))

theorem blockChecks_keys {s : State} (hlen : s.srcLen = 16) (hcap : 16 ≤ s.plat.srcCap) (hrkv : s.snap.rkv = false) :
    firstFailing (blockChecks s) = some .roundKeysNotLoaded :=
  firstFailing_pass (srcTooLong_of_le (hlen.le.trans hcap)) (firstFailing_pass (blockLenBad_of_eq hlen)
    (firstFailing_fail (keysNotLoaded_of_rkv hrkv)))

/-- The two block commands differ in their output block only. -/
theorem exec_blockCommand {i : Instr} (hi : i = .sm4EncBlock ∨ i = .sm4DecBlock) (s : State) :
    (s.srcLen = 16 → 16 ≤ s.plat.srcCap → s.snap.rkv = true → ∃ t, exec i s = .next t ∧
      Succeeded s t (outputsOf i s).dst ∧ t.dstlen = 16 ∧ t.rk = s.rk ∧ t.v = s.v ∧
      t.status.rkv = s.status.rkv) ∧
    (s.plat.srcCap < s.srcLen → exec i s = .next (s.raiseError .sourceLengthOutOfRange)) ∧
    (s.srcLen ≤ s.plat.srcCap → s.srcLen ≠ 16 → exec i s = .next (s.raiseError .invalidBlockLength)) ∧
    (s.srcLen = 16 → 16 ≤ s.plat.srcCap → s.snap.rkv = false →
      exec i s = .next (s.raiseError .roundKeysNotLoaded)) := by
  have hrow : checksOf i s = blockChecks s := by obtain rfl | rfl := hi <;> rfl
  have hv : writesV i = false := by obtain rfl | rfl := hi <;> rfl
  have hrk : writesRk i = false := by obtain rfl | rfl := hi <;> rfl
  have hblock : (outputsOf i s).dst.length = 16 := by obtain rfl | rfl := hi <;> rfl
  refine ⟨fun hlen hcap hkeys => ?_, exec_of_srcTooLong hrow,
    fun hsrc hlen => exec_fails (hrow ▸ blockChecks_length hsrc hlen),
    fun hlen hcap hkeys => exec_fails (hrow ▸ blockChecks_keys hlen hcap hkeys)⟩
  obtain ⟨t, hnext, hok, hdst, _⟩ := exec_success (hrow ▸ blockChecks_pass hlen hcap hkeys)
  obtain ⟨hkeep, hkeepv⟩ := exec_keeps_rk hrk hnext
  exact ⟨t, hnext, hok, hdst.trans (congrArg (BitVec.ofNat 64) hblock), hkeep, exec_keeps_v hv hnext, hkeepv⟩

/-- Settles O28: the output block of SM4_ENC_BLOCK is the encrypted block. -/
theorem sm4EncBlockEncrypts : Obligations.Sm4EncBlockEncrypts :=
  ⟨(decode_eq_command_iff _ _).mpr rfl, exec_blockCommand (.inl rfl)⟩

/-- Settles O29: the output block of SM4_DEC_BLOCK is the decrypted block. -/
theorem sm4DecBlockDecrypts : Obligations.Sm4DecBlockDecrypts :=
  ⟨(decode_eq_command_iff _ _).mpr rfl, exec_blockCommand (.inr rfl)⟩

/-! ### The modes -/

/-- A string no longer than the source has its own length in DSTLEN, since SRCLEN is a 64-bit value; so the bounds of
an unpadded string are DSTLEN's. -/
theorem dstlen_bounds {s t : State} {out : List Byte} (hlen : t.dstlen = BitVec.ofNat 64 out.length)
    (hge : s.srcBytes.length - 16 ≤ out.length) (hle : out.length ≤ s.srcBytes.length) :
    s.srcLen - 16 ≤ t.dstlen.toNat ∧ t.dstlen.toNat ≤ s.srcLen := by
  rw [State.length_srcBytes] at hge hle
  have hexact : t.dstlen.toNat = out.length := by
    rw [hlen, BitVec.toNat_ofNat, Nat.mod_eq_of_lt (Nat.lt_of_le_of_lt hle s.snap.srclen.isLt)]
  exact ⟨hexact ▸ hge, hexact ▸ hle⟩

/-- Settles O30: ECB_ENC checks the range and KEYLEN and commits the ECB encryption. -/
theorem ecbEncEncryptsSource : Obligations.EcbEncEncryptsSource := by
  refine ⟨(decode_eq_command_iff _ _).mpr rfl, fun s => ⟨fun hsrc hkey => ?_, exec_of_srcTooLong rfl,
    exec_of_keyLenBad rfl⟩⟩
  obtain ⟨t, hnext, hok, hlen, hv, hrk, hrkv⟩ := exec_success (i := .ecbEnc) (s := s)
    (firstFailing_modeRow hsrc hkey firstFailing_nil)
  refine ⟨t, hnext, hok, hlen.trans ?_, hrk, hrkv.trans (Bool.or_true _), hv⟩
  rw [outputsOf, length_ecbEnc, State.length_srcBytes]

/-- Settles O31: ECB_DEC checks the range, KEYLEN and SRCLEN and commits the ECB decryption. -/
theorem ecbDecDecryptsSource : Obligations.EcbDecDecryptsSource := by
  refine ⟨(decode_eq_command_iff _ _).mpr rfl, fun s => ⟨fun hsrc hkey hpos hmod => ?_, exec_of_srcTooLong rfl,
    exec_of_keyLenBad rfl, fun hsrc hkey hbad => exec_fails (ecbDecRow_ragged hsrc hkey hbad)⟩⟩
  obtain ⟨t, hnext, hok, hlen, hv, hrk, hrkv⟩ := exec_success (ecbDecRow_pass hsrc hkey hpos hmod)
  have hblocks : s.srcBytes.length % 16 = 0 := by rwa [State.length_srcBytes]
  obtain ⟨hge, hle⟩ := dstlen_bounds hlen (length_sub_le_length_ecbDec _ hblocks) (length_ecbDec_le _ _)
  exact ⟨t, hnext, hok, hge, hle, hrk, hrkv.trans (Bool.or_true _), hv⟩

/-- Settles O32: CBC_ENC checks the range, KEYLEN and IVLEN and commits the CBC encryption. -/
theorem cbcEncEncryptsSource : Obligations.CbcEncEncryptsSource := by
  refine ⟨(decode_eq_command_iff _ _).mpr rfl, fun s => ⟨fun hsrc hkey hiv => ?_, exec_of_srcTooLong rfl,
    exec_of_keyLenBad rfl, fun hsrc hkey hiv => exec_fails (cbcEncRow_ivLen hsrc hkey hiv)⟩⟩
  obtain ⟨t, hnext, hok, hlen, hv, hrk, hrkv⟩ := exec_success (cbcEncRow_pass hsrc hkey hiv)
  refine ⟨t, hnext, hok, hlen.trans ?_, hrk, hrkv.trans (Bool.or_true _), hv⟩
  rw [outputsOf, length_cbcEnc, State.length_srcBytes]

/-- Settles O33: CBC_DEC checks the range, KEYLEN, IVLEN and SRCLEN and commits the CBC decryption. -/
theorem cbcDecDecryptsSource : Obligations.CbcDecDecryptsSource := by
  refine ⟨(decode_eq_command_iff _ _).mpr rfl, fun s => ⟨fun hsrc hkey hiv hpos hmod => ?_, exec_of_srcTooLong rfl,
    exec_of_keyLenBad rfl, fun hsrc hkey hiv => exec_fails (cbcDecRow_ivLen hsrc hkey hiv),
    fun hsrc hkey hiv hbad =>
      exec_fails (cbcDecRow_tail hsrc hkey hiv (firstFailing_fail (cipherLenBad_of_ragged hbad)))⟩⟩
  obtain ⟨t, hnext, hok, hlen, hv, hrk, hrkv⟩ := exec_success
    (cbcDecRow_tail hsrc hkey hiv (firstFailing_pass (cipherLenBad_of_blocks hpos hmod) firstFailing_nil))
  have hblocks : s.srcBytes.length % 16 = 0 := by rwa [State.length_srcBytes]
  obtain ⟨hge, hle⟩ := dstlen_bounds hlen (length_sub_le_length_cbcDec _ s.length_ivBytes hblocks)
    (length_cbcDec_le _ _ _)
  exact ⟨t, hnext, hok, hge, hle, hrk, hrkv.trans (Bool.or_true _), hv⟩

/-! ### Padding -/

/-- Settles O34: PKCS7_PAD checks the range and commits the padded source. -/
theorem pkcs7PadPadsSource : Obligations.Pkcs7PadPadsSource := by
  refine ⟨(decode_eq_command_iff _ _).mpr rfl, fun s => ⟨fun hsrc => ?_, exec_of_srcTooLong rfl⟩⟩
  obtain ⟨t, hnext, hok, hlen, hv, hrk, hrkv⟩ := exec_success (i := .pkcs7Pad) (s := s)
    (firstFailing_pass (srcTooLong_of_le hsrc) firstFailing_nil)
  have hpad : pkcs7Pad s.srcBytes =
      s.srcBytes ++ List.replicate (16 - s.srcLen % 16) (BitVec.ofNat 8 (16 - s.srcLen % 16)) := by
    rw [pkcs7Pad, padLen, State.length_srcBytes]
  refine ⟨t, hnext, hpad ▸ hok, hlen.trans ?_, hv, hrk, hrkv.trans (Bool.or_false _)⟩
  rw [outputsOf, length_pkcs7Pad, State.length_srcBytes]

theorem State.take_memRead (s : State) (sp : Space) (off : Nat) {k n : Nat} (h : k ≤ n) :
    (s.memRead sp off n).take k = s.memRead sp off k := by
  rw [State.memRead, ← List.map_take, List.take_range, Nat.min_eq_left h, State.memRead]

theorem State.getLast?_memRead_succ (s : State) (sp : Space) (n : Nat) :
    (s.memRead sp 0 (n + 1)).getLast? = some (s.readByte sp n) := by
  rw [State.memRead, List.range_succ, List.map_append, List.map_singleton, List.getLast?_concat, Nat.zero_add]

/-- The unpadding of a run of bytes, said by its last byte (R234); an empty run stays empty. -/
theorem State.pkcs7Unpad_memRead (s : State) (sp : Space) (n : Nat) :
    pkcs7Unpad (s.memRead sp 0 n) =
      if 1 ≤ (s.readByte sp (n - 1)).toNat ∧ (s.readByte sp (n - 1)).toNat ≤ 16 ∧
          (s.readByte sp (n - 1)).toNat ≤ n
        then s.memRead sp 0 (n - (s.readByte sp (n - 1)).toNat) else s.memRead sp 0 n := by
  cases n with
  | zero => rw [if_neg (by omega)]; rfl
  | succ n =>
    rw [Nat.add_sub_cancel, pkcs7Unpad, s.getLast?_memRead_succ sp n, State.length_memRead]
    simp only [s.take_memRead sp 0 (Nat.sub_le _ _)]

/-- Settles O35: PKCS7_UNPAD checks the range only and commits the unpadded source. -/
theorem pkcs7UnpadStripsByLastByte : Obligations.Pkcs7UnpadStripsByLastByte := by
  refine ⟨(decode_eq_command_iff _ _).mpr rfl, fun s => ⟨fun hsrc => ?_, exec_of_srcTooLong rfl⟩⟩
  obtain ⟨t, hnext, hok, hlen, hv, hrk, hrkv⟩ := exec_success (i := .pkcs7Unpad) (s := s)
    (firstFailing_pass (srcTooLong_of_le hsrc) firstFailing_nil)
  obtain ⟨hge, hle⟩ := dstlen_bounds hlen (length_sub_le_length_pkcs7Unpad _) (length_pkcs7Unpad_le _)
  refine ⟨t, hnext, ?_, hge, hle, hv, hrk, hrkv.trans (Bool.or_false _)⟩
  rw [← State.pkcs7Unpad_memRead]
  exact hok

end Sys2Proof.Machine
end

section
/-! SUPPORT. Proofs of the statements about runs of commands: streaming (40_sm3.md R162), the round trips at the
commands (41_sm4.md R202, 43_modes.md R260) and the retry after an error (60_exceptions.md R289). -/

namespace Sys2Proof.Machine

/-! ### A command on a loaded source -/

/-- A string that fits SRC on a platform in range is shorter than SRCLEN can say. -/
theorem Platform.length_lt_of_fits {p : Platform} (hwf : p.wf = true) {n : Nat} (h : n ≤ p.srcCap) : n < 2 ^ 64 := by
  rw [Platform.wf_iff] at hwf
  omega

theorem State.srcLen_loaded {S : List Byte} (h : S.length < 2 ^ 64) (w : Word) (s : State) :
    ((s.withSource S).accept w).srcLen = S.length := by
  show (s.withSource S).srclen.toNat = S.length
  rw [State.srclen_withSource, BitVec.toNat_ofNat, Nat.mod_eq_of_lt h]

theorem State.memRead_src_loaded (S : List Byte) (w : Word) (s : State) :
    ((s.withSource S).accept w).memRead .src 0 S.length = S := by
  rw [State.memRead_congr ((s.withSource S).readByte_accept w .src), State.memRead_withSource]

theorem State.srcBytes_loaded {S : List Byte} (h : S.length < 2 ^ 64) (w : Word) (s : State) :
    ((s.withSource S).accept w).srcBytes = S := by
  rw [State.srcBytes, State.srcLen_loaded h, State.memRead_src_loaded]

/-- The key and the IV that a command finds are those of the state before the source was loaded. -/
theorem State.memRead_loaded {sp : Space} (hsp : sp ≠ .src) (S : List Byte) (w : Word) (off n : Nat) (s : State) :
    ((s.withSource S).accept w).memRead sp off n = s.memRead sp off n :=
  State.memRead_congr (fun a => by
    rw [State.readByte_accept, State.readByte_withSource, if_neg (fun h => hsp h.1)]) off n

/-- The result string of a success is the command's output string. -/
theorem Succeeded.result_eq {s t : State} {out : List Byte} (h : Succeeded s t out) (hlen : out.length < 2 ^ 64) :
    t.result = out := by
  rw [State.result, h.dstlen, BitVec.toNat_ofNat, Nat.mod_eq_of_lt hlen, h.bytes]

/-- A command keeps the key and the IV for the next one. -/
theorem KeepsInputs.memRead_eq {s t : State} (h : KeepsInputs s t) {sp : Space} (hsp : sp ≠ .dst) (off n : Nat) :
    t.memRead sp off n = s.memRead sp off n :=
  State.memRead_congr (fun a => h.bytes sp a hsp) off n

/-! ### Streaming (R162) -/

/-- What SM3_HASH and SM3_COMPRESS leave for the host to read: DST[0..32) and DSTLEN say the digest form of V. -/
structure HoldsDigest (s : State) : Prop where
  bytes : s.memRead .dst 0 32 = digestBytes s.v
  dstlen : s.dstlen = 32

/-- A commit of a chaining value leaves its digest form. -/
theorem holdsDigest_commit (v : Vector Word 8) (s : State) : HoldsDigest (s.commit (chainOutputs v)) where
  bytes := by
    have hread := s.memRead_commit (chainOutputs v)
    rwa [show (chainOutputs v).dst.length = 32 from length_digestBytes v] at hread
  dstlen := by
    rw [State.dstlen_commit, show (chainOutputs v).dst.length = 32 from length_digestBytes v]
    rfl

/-- SM3_COMPRESS of a loaded block. -/
theorem runCommand_sm3Compress {s : State} {B : List Byte} (hcap : 64 ≤ s.plat.srcCap) (hB : B.length = 64) :
    ∃ t, (s.withSource B).runCommand .sm3Compress = .next t ∧ t.plat = s.plat ∧ t.v = sm3CF s.v B ∧
      HoldsDigest t := by
  have hlen : ((s.withSource B).accept (encode .sm3Compress)).srcLen = 64 :=
    (State.srcLen_loaded (by omega) _ s).trans hB
  have hblock : ((s.withSource B).accept (encode .sm3Compress)).memRead .src 0 64 = B :=
    hB ▸ State.memRead_src_loaded B _ s
  exact ⟨_, exec_succeeds (sm3CompressRow_pass hlen hcap), rfl, congrArg (sm3CF s.v) hblock, holdsDigest_commit _ _⟩

/-- Streaming blocks, at least one, folds CF over them and leaves the digest form of the last value. -/
theorem stream_eq_foldl {s : State} {B : List Byte} {Bs : List (List Byte)} (hcap : 64 ≤ s.plat.srcCap)
    (hBs : ∀ C ∈ B :: Bs, C.length = 64) :
    ∃ u, State.stream (B :: Bs) s = some u ∧ u.v = (B :: Bs).foldl sm3CF s.v ∧ HoldsDigest u := by
  induction Bs generalizing s B with
  | nil =>
    obtain ⟨t, hnext, _, hv, ht⟩ := runCommand_sm3Compress hcap (hBs B List.mem_cons_self)
    refine ⟨t, ?_, hv, ht⟩
    rw [State.stream, hnext]
    rfl
  | cons C Cs ih =>
    obtain ⟨t, hnext, hplat, hv, _⟩ := runCommand_sm3Compress hcap (hBs B List.mem_cons_self)
    obtain ⟨u, hstream, huv, hu⟩ := ih (hplat ▸ hcap) fun D hD => hBs D (List.mem_cons_of_mem B hD)
    refine ⟨u, ?_, huv.trans (by rw [hv, ← List.foldl_cons]), hu⟩
    rw [State.stream, hnext, ← hstream]

theorem length_of_mem_blocks64 {pm B : List Byte} (h : B ∈ blocks64 pm) : B.length = 64 := by
  simp only [blocks64, List.mem_map, List.mem_range] at h
  obtain ⟨b, hb, rfl⟩ := h
  exact length_blockOf 64 pm b (by omega)

/-- The hash of a message folds CF over the blocks of its padded form (R151). -/
theorem foldl_blocks64_sm3Pad (M : List Byte) : (blocks64 (sm3Pad M)).foldl sm3CF sm3Iv = sm3Words M := by
  rw [blocks64, List.foldl_map, sm3Words, sm3Chain]

theorem exists_blocks64_sm3Pad_eq_cons (M : List Byte) : ∃ B Bs, blocks64 (sm3Pad M) = B :: Bs := by
  refine List.exists_cons_of_length_pos ?_
  rw [blocks64, List.length_map, List.length_range, length_sm3Pad_eq_blocks]
  omega

theorem runCommand_sm3Init (s : State) :
    ∃ t, s.runCommand .sm3Init = .next t ∧ t.plat = s.plat ∧ t.v = sm3Iv :=
  ⟨_, exec_succeeds firstFailing_nil, rfl, rfl⟩

/-- SM3_HASH of a loaded message. -/
theorem runCommand_sm3Hash {s : State} {M : List Byte} (hlt : M.length < 2 ^ 64) (hM : M.length ≤ s.plat.srcCap) :
    ∃ t, (s.withSource M).runCommand .sm3Hash = .next t ∧ t.status.err = false ∧ t.v = sm3Words M ∧
      HoldsDigest t := by
  have hsrc : ((s.withSource M).accept (encode .sm3Hash)).srcLen ≤ s.plat.srcCap :=
    (State.srcLen_loaded hlt _ s).le.trans hM
  exact ⟨_, exec_succeeds (firstFailing_pass (srcTooLong_of_le hsrc) firstFailing_nil), rfl,
    congrArg sm3Words (State.srcBytes_loaded hlt _ s), holdsDigest_commit _ _⟩

/-- Settles O46: both ways fold CF over the padded message's blocks from the IV, and both leave the digest form. -/
theorem streamingCompressEqualsHash : Obligations.StreamingCompressEqualsHash := by
  intro s M hwf _ hM
  obtain ⟨t, hinit, hplat, hiv⟩ := runCommand_sm3Init s
  obtain ⟨h, hhash, herr, hv, hh⟩ := runCommand_sm3Hash (Platform.length_lt_of_fits hwf hM) hM
  obtain ⟨B, Bs, hcons⟩ := exists_blocks64_sm3Pad_eq_cons M
  have hcap : 64 ≤ t.plat.srcCap := hplat ▸ ((Platform.wf_iff _).mp hwf).1
  obtain ⟨u, hstream, huv, hu⟩ := stream_eq_foldl hcap fun C hC => length_of_mem_blocks64 (hcons ▸ hC)
  rw [← hcons, hiv, foldl_blocks64_sm3Pad] at huv
  have hsame : u.v = h.v := huv.trans hv.symm
  refine ⟨t, u, h, hinit, hcons ▸ hstream, hhash, herr, hsame, ?_, hu.dstlen.trans hh.dstlen.symm⟩
  rw [hu.bytes, hh.bytes, hsame]

/-! ### Round trips at the commands (R202, R260) -/

/-- The key or the IV that a command finds after another one and a new source is the one that command found. -/
theorem KeepsInputs.memRead_reloaded {s t : State} (h : KeepsInputs s t) {sp : Space} (hsrc : sp ≠ .src)
    (hdst : sp ≠ .dst) (S : List Byte) (w : Word) (off n : Nat) :
    ((t.withSource S).accept w).memRead sp off n = s.memRead sp off n := by
  rw [State.memRead_loaded hsrc, h.memRead_eq hdst]

/-- Settles O47: the second command has the first one's block and round keys, and the block transform inverts. -/
theorem blockCommandsInvert : Obligations.BlockCommandsInvert := by
  obtain ⟨_, henc⟩ := sm4EncBlockEncrypts
  obtain ⟨_, hdec⟩ := sm4DecBlockDecrypts
  intro s P hwf _ hrkv hP
  have hcap : 16 ≤ s.plat.srcCap := Nat.le_trans (by decide) ((Platform.wf_iff _).mp hwf).1
  have hloaded {S : List Byte} (hS : S.length = 16) (w : Word) (t : State) :
      ((t.withSource S).accept w).srcLen = 16 ∧ ((t.withSource S).accept w).memRead .src 0 16 = S :=
    ⟨(State.srcLen_loaded (by omega) w t).trans hS, hS ▸ State.memRead_src_loaded S w t⟩
  obtain ⟨hlen, hblock⟩ := hloaded hP (encode .sm4EncBlock) s
  obtain ⟨t, hnext, hok, _, hrk, _, htrkv⟩ := (henc _).1 hlen hcap hrkv
  have hresult : t.result = sm4Enc s.rk P := by
    rw [hok.result_eq (by rw [length_sm4Enc]; decide), hblock]; rfl
  obtain ⟨hlen', hblock'⟩ := hloaded (length_sm4Enc s.rk P) (encode .sm4DecBlock) t
  obtain ⟨u, hnext', hok', _⟩ := (hdec _).1 hlen' ((exec_keepsInputs hnext).plat ▸ hcap) (htrkv.trans hrkv)
  refine ⟨t, u, hnext, hresult ▸ hnext', hok'.err, ?_⟩
  rw [hok'.result_eq (by rw [length_sm4Dec]; decide), hblock']
  calc sm4Dec t.rk (sm4Enc s.rk P) = sm4Dec s.rk (sm4Enc s.rk P) := by rw [hrk]; rfl
    _ = P := sm4Dec_sm4Enc s.rk hP

/-- The result of an encryption, copied back, is a source that a decryption accepts. -/
theorem ciphertext_accepted {s t : State} {P C : List Byte} (hok : Succeeded s t C) (hwf : t.plat.wf = true)
    (hP : P.length + 16 ≤ t.plat.srcCap) (hC : C.length = 16 * (P.length / 16 + 1)) (w : Word) :
    ((t.withSource t.result).accept w).srcLen ≤ ((t.withSource t.result).accept w).plat.srcCap ∧
      0 < ((t.withSource t.result).accept w).srcLen ∧ ((t.withSource t.result).accept w).srcLen % 16 = 0 ∧
      ((t.withSource t.result).accept w).memRead .src 0 ((t.withSource t.result).accept w).srcLen = C := by
  have hlt : C.length < 2 ^ 64 := Platform.length_lt_of_fits hwf (by omega)
  rw [hok.result_eq hlt, State.srcLen_loaded hlt, State.memRead_src_loaded, State.accept_plat, State.withSource_plat]
  refine ⟨?_, ?_, ?_, rfl⟩ <;> omega

/-- A plaintext that leaves room for a block of padding is a source that an encryption accepts. -/
theorem plaintext_accepted {s : State} {P : List Byte} (hwf : s.plat.wf = true)
    (hP : P.length + 16 ≤ s.plat.srcCap) (w : Word) : P.length < 2 ^ 64 ∧
      ((s.withSource P).accept w).srcLen ≤ ((s.withSource P).accept w).plat.srcCap ∧
      ((s.withSource P).accept w).memRead .src 0 ((s.withSource P).accept w).srcLen = P := by
  have hlt : P.length < 2 ^ 64 := Platform.length_lt_of_fits hwf (by omega)
  rw [State.srcLen_loaded hlt, State.memRead_src_loaded, State.accept_plat, State.withSource_plat]
  exact ⟨hlt, by omega, rfl⟩

/-- Settles O48: ECB_DEC has ECB_ENC's result and key, and the mode functions invert. -/
theorem ecbCommandsRoundTrip : Obligations.EcbCommandsRoundTrip := by
  obtain ⟨_, henc⟩ := ecbEncEncryptsSource
  obtain ⟨_, hdec⟩ := ecbDecDecryptsSource
  intro s P hwf _ hkey hP
  obtain ⟨hPlt, hsrc, hplain⟩ := plaintext_accepted hwf hP (encode .ecbEnc)
  obtain ⟨t, hnext, hok, _⟩ := (henc _).1 hsrc hkey
  have hkeep := exec_keepsInputs hnext
  rw [hplain] at hok
  obtain ⟨hsrc', hpos, hmod, hcipher⟩ := ciphertext_accepted hok (hkeep.plat ▸ hwf) (hkeep.plat ▸ hP)
    (length_ecbEnc _ P) (encode .ecbDec)
  obtain ⟨u, hnext', hok', _⟩ := (hdec _).1 hsrc' (hkeep.keylen.trans hkey) hpos hmod
  rw [hcipher, hkeep.memRead_reloaded (by decide) (by decide), ecbDec_ecbEnc] at hok'
  exact ⟨t, u, hnext, hok.err, hnext', hok'.err, hok'.result_eq hPlt⟩

/-- Settles O49: CBC_DEC has CBC_ENC's result, key and IV, and the mode functions invert. -/
theorem cbcCommandsRoundTrip : Obligations.CbcCommandsRoundTrip := by
  obtain ⟨_, henc⟩ := cbcEncEncryptsSource
  obtain ⟨_, hdec⟩ := cbcDecDecryptsSource
  intro s P hwf _ hkey hiv hP
  obtain ⟨hPlt, hsrc, hplain⟩ := plaintext_accepted hwf hP (encode .cbcEnc)
  obtain ⟨t, hnext, hok, _⟩ := (henc _).1 hsrc hkey hiv
  have hkeep := exec_keepsInputs hnext
  rw [hplain] at hok
  obtain ⟨hsrc', hpos, hmod, hcipher⟩ := ciphertext_accepted hok (hkeep.plat ▸ hwf) (hkeep.plat ▸ hP)
    (length_cbcEnc _ _ P) (encode .cbcDec)
  obtain ⟨u, hnext', hok', _⟩ := (hdec _).1 hsrc' (hkeep.keylen.trans hkey) (hkeep.ivlen.trans hiv) hpos hmod
  rw [hcipher, hkeep.memRead_reloaded (by decide) (by decide), hkeep.memRead_reloaded (by decide) (by decide),
    cbcDec_cbcEnc _ (State.length_memRead _ _ _ _)] at hok'
  exact ⟨t, u, hnext, hok.err, hnext', hok'.err, hok'.result_eq hPlt⟩

/-! ### Retrying (R289) -/

/-- Every command writes DSTLEN, so none depends on what it held. -/
theorem exec_setDstlen (i : Instr) (n : Nat) (s : State) : exec i (s.setDstlen n) = exec i s := by
  have hchecks : checksOf i (s.setDstlen n) = checksOf i s := by cases i <;> rfl
  have houtputs : outputsOf i (s.setDstlen n) = outputsOf i s := by cases i <;> rfl
  rw [exec_next, exec_next, hchecks, houtputs]
  cases firstFailing (checksOf i s) <;> rfl

/-- Settles O50: an error leaves the state as it was but for STATUS, which the next acceptance writes, and DSTLEN. -/
theorem failedCommandLeavesNoTrace : Obligations.FailedCommandLeavesNoTrace := by
  intro i j s t S kl il _ h herr
  obtain ⟨e, rfl⟩ := exec_error_cases h herr
  exact exec_setDstlen j 0 (State.accept (encode j) { s.withSource S with keylen := kl, ivlen := il })

/-! ### What a result does not depend on -/

/-- A command on a state that gives it the same checks and the same outputs ends in the same way. -/
theorem exec_of_same {i : Instr} {s u : State} (hchecks : checksOf i u = checksOf i s)
    (houtputs : outputsOf i u = outputsOf i s) :
    exec i u = .next ((firstFailing (checksOf i s)).elim (u.commit (outputsOf i s)) u.raiseError) := by
  rw [exec_next, hchecks, houtputs]

/-- Settles O51: the checks and the outputs of a mode command read neither the RK file nor the snapshot's RK and RKV. -/
theorem modeCommandsIgnoreRoundKeyFile : Obligations.ModeCommandsIgnoreRoundKeyFile := by
  intro i s t rk rkv hi h
  have hchecks : checksOf i { s with rk := rk, snap := { s.snap with rk := rk, rkv := rkv } } = checksOf i s := by
    obtain rfl | rfl | rfl | rfl := hi <;> rfl
  have houtputs : outputsOf i { s with rk := rk, snap := { s.snap with rk := rk, rkv := rkv } } = outputsOf i s := by
    obtain rfl | rfl | rfl | rfl := hi <;> rfl
  have hwrites : (outputsOf i s).rk = some (sm4Keyexp s.keyBytes) := by
    obtain rfl | rfl | rfl | rfl := hi <;> rfl
  refine ⟨_, exec_of_same hchecks houtputs, ?_⟩
  obtain ⟨e, hc, rfl⟩ | ⟨hc, rfl⟩ := exec_cases h
  · rw [hc]
    exact ⟨rfl, rfl, rfl, nofun⟩
  · rw [hc]
    refine ⟨rfl, rfl, rfl, fun _ => ?_⟩
    rw [Option.elim_none, State.commit_rk, State.commit_rk, hwrites, Option.getD_some, Option.getD_some]

/-- Settles O52: the checks and the outputs of an ECB command read neither IVLEN nor the IV buffer. -/
theorem ecbCommandsIgnoreIv : Obligations.EcbCommandsIgnoreIv := by
  intro i s t m il hi h
  have hchecks : checksOf i { s with iv := m, ivlen := il, snap := { s.snap with ivlen := il } } = checksOf i s := by
    obtain rfl | rfl := hi <;> rfl
  have houtputs : outputsOf i { s with iv := m, ivlen := il, snap := { s.snap with ivlen := il } } = outputsOf i s := by
    obtain rfl | rfl := hi <;> rfl
  obtain ⟨e, hc, rfl⟩ | ⟨hc, rfl⟩ := exec_cases h <;> rw [exec_of_same hchecks houtputs, hc] <;> rfl

/-- Settles O53: no command's checks or outputs read the datapath; a commit overwrites it and an error keeps it. -/
theorem outcomeIndependentOfDatapath : Obligations.OutcomeIndependentOfDatapath := by
  intro i s t d h
  have hchecks : checksOf i { s with dp := d } = checksOf i s := by cases i <;> rfl
  have houtputs : outputsOf i { s with dp := d } = outputsOf i s := by cases i <;> rfl
  rw [exec_of_same hchecks houtputs]
  obtain ⟨e, hc, rfl⟩ | ⟨hc, rfl⟩ := exec_cases h
  · rw [hc]; exact .inr rfl
  · rw [hc]; exact .inl rfl

end Sys2Proof.Machine
end
